-- ==== Sys2Proof/Word.lean ====
section
/-! DEFINITION. The words, addresses and duties the RHV416's spec speaks of, as plain types. -/

namespace Sys2Proof

/-- One character of a frame or byte of a snapshot (R17, R99). -/
abbrev Byte := BitVec 8

/-- A sixteen-bit field: a flow, a volume, a round number, a digest, a profile word, the event flags. -/
abbrev Word16 := BitVec 16

/-- A panel word of four bytes, byte 0 in the most significant eight bits (R155, R166). -/
abbrev Word32 := BitVec 32

/-- A valve duty, 0 to 1023 (R139). -/
abbrev Duty := BitVec 10

/-- The code of one conversion, 0 to 4095 (R151). -/
abbrev AnalogCode := BitVec 12

/-- A station address, 0 to 15; its arithmetic is modulo 16 (R24). -/
abbrev Address := Fin 16

end Sys2Proof
end

