-- ==== Sys2Proof/Machine/Types.lean ====
section
/-! DEFINITION. The named things of the RHV416: roles, presences, verdicts, override kinds, frames, records,
table and queue entries. Numeric codes stand in Machine/Codes.lean, behaviour elsewhere. -/

namespace Sys2Proof.Machine

/-- The four strapped roles (R117). -/
inductive Role
  | producer | store | consumer | flare
deriving DecidableEq, Repr, Inhabited

/-- A station's standing in the Station Table (R1). -/
inductive Presence
  | absent | joining | live | lost
deriving DecidableEq, Repr, Inhabited

/-- The last verdict of a station (R1, R63). -/
inductive Verdict
  | none | granted | partialGrant | deferred | suppressed | cut
  | refusedFull | refusedNotLive | refusedTier | refusedRole
deriving DecidableEq, Repr, Inhabited

/-- The kinds an Override Stack entry above BASE can have (R130). -/
inductive OverrideKind
  | startHold | esdIsolate | tripIsolate | plantTripIsolate | rejoinHold
  | limit | hold | fixed | isolate
deriving DecidableEq, Repr, Inhabited

/-- The governing kind of a station: NONE, BASE or an override kind (R1, R11). -/
inductive GoverningKind
  | none
  | base
  | override (kind : OverrideKind)
deriving DecidableEq, Repr, Inhabited

/-- How the last close served a queue entry (R54). -/
inductive EntryState
  | waiting | partialGrant | full | suppressed
deriving DecidableEq, Repr, Inhabited

/-- The join state of the node (R129). -/
inductive JoinState
  | profile | listening | joined | diverged | muted
deriving DecidableEq, Repr, Inhabited

/-- The action of a DUTY frame (R88, R91). -/
inductive DutyAction
  | offer | withdraw | take
deriving DecidableEq, Repr, Inhabited

/-- The status of a BLOCK 0 (R108, R163). -/
inductive BlockStatus
  | clear | busy | notEligible
deriving DecidableEq, Repr, Inhabited

/-- One committed figure with its age (R1, R8). -/
structure Figure where
  value : Word16
  age : Nat
deriving DecidableEq, Repr

/-- One Station Table entry (R1). The figures are the eight slots of R165; the slots the role does not
hold stand at value 0 and age 3. -/
structure Entry where
  presence : Presence
  role : Option Role
  heard : Nat
  miss : Nat
  verdict : Verdict
  figures : List Figure
  governing : GoverningKind
  flame : Bool
  dutyAllowed : Bool
deriving DecidableEq, Repr

/-- One Claim Queue entry (R52). -/
structure QueueEntry where
  claimant : Address
  requested : Nat
  draws : List Word16
  minMethane : Nat
  granted : Nat
  shortfall : Bool
  state : EntryState
  joined : Word16
deriving DecidableEq, Repr

/-- The committed state every node holds alike after a close (00_scope.md, TERMS). The trip set has bit n
set for the member n (R74, R165). -/
structure Committed where
  table : List Entry
  queue : List QueueEntry
  duty : Option Address
  offer : Bool
  trips : Word16
  flaring : Bool
  unburnt : Nat
deriving DecidableEq, Repr

/-- What a STATUS tells of its sender (R43, R163). The figures are the slots of the role, each present with
a value or absent. -/
structure StatusBody where
  role : Role
  digest : Word16
  governing : GoverningKind
  flame : Bool
  dutyAllowed : Bool
  figures : List (Option Word16)
deriving DecidableEq, Repr

/-- What a CLAIM asks for (R43, R64). -/
structure ClaimBody where
  tier : Nat
  minMethane : Nat
  draws : List Word16
deriving DecidableEq, Repr

/-- The contents of a frame, by its kind (R18, R163). -/
inductive FrameBody
  | status (body : StatusBody)
  | mark
  | claim (body : ClaimBody)
  | yield (tier : Nat)
  | duty (action : DutyAction)
  | announce (role : Role)
  | trip
  | clear (target : Address)
  | ask (server : Address) (attempt : Nat)
  | blockHeader (addressee : Address) (attempt : Nat) (status : BlockStatus) (count : Nat)
      (round : Word16) (digest : Word16)
  | blockData (addressee : Address) (attempt : Nat) (index : Nat) (bytes : List Byte)
deriving DecidableEq, Repr

/-- A good frame as the receiving LC hands it on (R20, R21). -/
structure GoodFrame where
  sender : Address
  round : Word16
  body : FrameBody
deriving DecidableEq, Repr

/-- A record of the Round Journal (R43). -/
inductive Record
  | status (sender : Address) (body : StatusBody)
  | claim (sender : Address) (round : Word16) (body : ClaimBody)
  | yield (sender : Address) (tier : Nat)
  | duty (sender : Address) (action : DutyAction)
  | announce (sender : Address) (role : Role)
  | trip (sender : Address)
  | clear (sender : Address) (target : Address)
  | gap
deriving DecidableEq, Repr

/-- The block that offered a frame to the LC (R28, THE TRANSMIT QUEUE). -/
inductive Originator
  | ae | eiu | ttu
deriving DecidableEq, Repr

/-- A frame of the transmit queue. `tracked` marks the CLAIM of the pending demand (R65), the ASK of the
attempt in progress (R107) and the BLOCK the serving TTU follows (R109). -/
structure QueuedFrame where
  body : FrameBody
  originator : Originator
  tracked : Bool
  collisions : Nat
deriving DecidableEq, Repr

/-- The node's own frame in progress on the line: the header round filled at its start and its characters
(R19, R25). -/
structure LineFrame where
  round : Word16
  chars : List Byte
deriving DecidableEq, Repr

/-- The node's own part in a frame that has not ended (R20, R22): none; characters of a frame of its own that is in
progress, collided or was cut off; or a whole frame of its own, these characters, that counted as sent. -/
inductive OwnPart
  | nothing
  | begun
  | sent (chars : List Byte)
deriving DecidableEq, Repr

/-- What the LC knows of the line (R17): quiet since the end of the last character, with the last-sender view as it
stood at three slots of quiet where a reset changed the view after them (R24); or in a frame that has not ended, with
the moments of its first and its last start bit and the node's own part in it. -/
inductive LineState
  | quiet (since : Nat) (view : Option Address)
  | busy (first last : Nat) (own : OwnPart)
deriving DecidableEq, Repr

/-- A timer: stopped, held at its restarted value (R123), or running since a moment of the clock. -/
inductive Timer
  | stopped
  | held
  | running (since : Nat)
deriving DecidableEq, Repr

/-- The six link counters (R35). -/
structure LinkCounters where
  framesGood : Word16
  crcErrors : Word16
  collisions : Word16
  discards : Word16
  duplicateMarks : Word16
  roundSlips : Word16
deriving DecidableEq, Repr

/-- A frame in the AE's hold (R47): a TRIP, or a CLEAR with its target. -/
inductive HeldFrame
  | trip
  | clear (target : Address)
deriving DecidableEq, Repr

/-- The stage of the pending demand (R65). -/
inductive DemandStage
  | idle | queued | taken
deriving DecidableEq, Repr

/-- The outcome of the pending demand: a last-verdict value, or NOT-TAKEN (R65). -/
inductive DemandOutcome
  | verdict (v : Verdict)
  | notTaken
deriving DecidableEq, Repr

/-- The pending demand (R65). -/
structure PendingDemand where
  stage : DemandStage
  outcome : DemandOutcome
deriving DecidableEq, Repr

/-- A reading of each analog channel; none is INVALID (R152). -/
structure Channels where
  ch0 : Option Word16
  ch1 : Option Word16
  ch2 : Option Word16
  ch3 : Option Word16
deriving DecidableEq, Repr

/-- The four codes of one scan (R151). -/
structure ScanCodes where
  ch0 : AnalogCode
  ch1 : AnalogCode
  ch2 : AnalogCode
  ch3 : AnalogCode
deriving DecidableEq, Repr

/-- What the TTU is doing (R107 to R111). -/
inductive TransferPhase
  | idle
  | asked (server : Address) (attempt : Nat)
  | loading (server : Address) (attempt : Nat) (round : Word16) (digest : Word16) (count : Nat) (expected : Nat)
  | serving (asker : Address) (attempt : Nat) (round : Word16) (digest : Word16) (count : Nat) (block : Nat)
deriving DecidableEq, Repr

/-- An Override Stack entry above BASE (R130). -/
structure OverrideEntry where
  kind : OverrideKind
  value : Word16
  captured : Duty
  round : Word16
  void : Bool
  expiries : Nat
deriving DecidableEq, Repr

/-- One event input: its pin level, the reference of its edge detector (for IN3 the counted level), its
latch and its lost count (R143, R144, R149). -/
structure EventInput where
  pin : Bool
  reference : Bool
  latch : Bool
  lost : Nat
deriving DecidableEq, Repr

/-- The panel exchange: SEL high; SEL low with the word fixed at its fall; or SEL low since before a
hardware reset, which made the exchange void (R155, R162). -/
inductive Exchange
  | none
  | shifting (word : Word32) (isReply : Bool)
  | voided
deriving DecidableEq, Repr

end Sys2Proof.Machine
end

