-- ==== Sys2Proof/Syntax.lean ====
section
/-! DEFINITION. The commands of the RHV416: one constructor for each row of spec/opcode_table.json, in the
table's order. The table's rows have no fields; an operand stands where the event brings something from
outside the part. The arguments of a panel command stand in the held command word (R166), so the handler's
taking of a held command has no operand. -/

namespace Sys2Proof

/-- The four event inputs IN0 to IN3 (R143). -/
inductive InputPin
  | esd | trip | permit | aux
deriving DecidableEq, Repr

/-- The levels of IN0 to IN3 at the end of hardware reset (R143, R149); true is high. -/
structure InputLevels where
  esd : Bool
  trip : Bool
  permit : Bool
  aux : Bool
deriving DecidableEq, Repr

/-- A command: one row of the table of operations and events. -/
inductive Instr
  /-- HARDWARE_RESET (R117): the address straps, ROLE1, ROLE0 and the input levels read at the end of reset. -/
  | hardwareReset (address : Address) (role1 role0 : Bool) (inputs : InputLevels)
  /-- PROFILE_WINDOW_EXPIRY (R118). -/
  | profileWindowExpiry
  /-- FRAME_START (R24): the moment at which the line has been quiet for `slots` access slots. -/
  | frameStart (slots : Nat)
  /-- COLLISION (R27). -/
  | collision
  /-- FRAME_SENT (R26). -/
  | frameSent
  /-- FRAME_END (R20): the characters of the frame that ended, and whether one had a framing error. -/
  | frameEnd (chars : List Byte) (framingError : Bool)
  /-- ROUND_TIMER_EXPIRY (R37). -/
  | roundTimerExpiry
  /-- SILENCE_TIMER_EXPIRY (R123). -/
  | silenceTimerExpiry
  /-- ANSWER_TIMER_EXPIRY (R110). -/
  | answerTimerExpiry
  /-- STALL_TIMER_EXPIRY (R111). -/
  | stallTimerExpiry
  /-- INPUT_EDGE (R143): the pin and the level it takes. -/
  | inputEdge (input : InputPin) (level : Bool)
  /-- ESD_EVENT (R146). -/
  | esdEvent
  /-- TRIP_EVENT (R147). -/
  | tripEvent
  /-- PERMIT_EVENT (R148). -/
  | permitEvent
  /-- AUX_EVENT (R149). -/
  | auxEvent
  /-- IN3_DEBOUNCE_EXPIRY (R149). -/
  | in3DebounceExpiry
  /-- FLAME_PROVING_EXPIRY (R149). -/
  | flameProvingExpiry
  /-- VALVE_PERIOD_START (R140). -/
  | valvePeriodStart
  /-- SCAN_START (R151). -/
  | scanStart
  /-- SCAN_COMPLETE (R152): the codes the four conversions gave. -/
  | scanComplete (codes : Machine.ScanCodes)
  /-- EXCHANGE_START (R155): SEL falls. -/
  | exchangeStart
  /-- EXCHANGE_END (R155): SEL rises after `edges` CLK edges with `word` shifted in; `handlerFirst` says
  whether the taking of the held command is over before a CANCEL that rides with the read of the blocking reply (R157),
  and whether a held RESTART is complete before the word of the exchange at whose end it is taken arrives (R160). -/
  | exchangeEnd (edges : Nat) (word : Word32) (handlerFirst : Bool)
  /-- NOP (R35). -/
  | nop
  /-- STATUS (R159). -/
  | status
  /-- CONTRACT (R67). -/
  | contract
  /-- WINDOW (R15). -/
  | window
  /-- READ (R15). -/
  | read
  /-- EVENTS (R159). -/
  | events
  /-- ACK (R161). -/
  | ack
  /-- MASK (R161). -/
  | mask
  /-- DEMAND (R160). -/
  | demand
  /-- PUSH (R133). -/
  | push
  /-- POP (R135). -/
  | pop
  /-- HANDOVER (R95). -/
  | handover
  /-- TRIP_CLEAR (R160). -/
  | tripClear
  /-- RELEASE (R126). -/
  | release
  /-- RESTART (R125). -/
  | restart
  /-- PROFILE_WORD (R118). -/
  | profileWord
  /-- PROFILE_DONE (R121). -/
  | profileDone
  /-- CANCEL (R157). -/
  | cancel
  /-- ILLEGAL_COMMAND_CODE (R166). -/
  | illegalCommandCode
  /-- START_BIT_DETECTED (R17). -/
  | startBitDetected
deriving DecidableEq, Repr

end Sys2Proof
end

