-- ==== Sys2Proof/Decode.lean ====
section
/-! DEFINITION. The words of the table. No row of spec/opcode_table.json gives bits (every row's "fields" is
empty and none has "fixed"), so no word spells a command. The layout of frames and panel words, which the
spec does give, stands in Machine/FrameFormat.lean and Machine/PanelFormat.lean. -/

namespace Sys2Proof

/-- The command that the table's bits spell: none, for the table gives none. -/
def decodeTableWord (_nbits _w : Nat) : Option Instr :=
  none

end Sys2Proof
end

