-- ==== Sys2Proof/Machine/Defaults.lean ====
section
/-! DEFINITION. The durations and capacities the spec states, the role defaults of the profile, and the
cleared committed state. -/

namespace Sys2Proof.Machine

/-! Durations, in microseconds. -/

/-- One character on the line: 0.16 ms (R17). -/
def characterTime : Nat := 160
/-- The quiet that ends a frame: 0.32 ms (R17). -/
def frameEndQuiet : Nat := 320
/-- The access slot: 0.25 ms (R24). -/
def accessSlot : Nat := 250
/-- The round timer: 1000 ms (R37). -/
def roundTime : Nat := 1000000
/-- The silence timer: 3000 ms (R123). -/
def silenceTime : Nat := 3000000
/-- The answer timer: 100 ms (R107). -/
def answerTime : Nat := 100000
/-- The stall timer: 60 ms (R110). -/
def stallTime : Nat := 60000
/-- The profile window: 2000 ms from the end of hardware reset (R118). -/
def profileWindowTime : Nat := 2000000
/-- The debounce of IN3 at a PRODUCER, STORE or CONSUMER: 10 ms (R149). -/
def debounceTime : Nat := 10000
/-- The flame proving time of IN3 at a FLARE: 2000 ms (R149). -/
def provingTime : Nat := 2000000
/-- From one scan start to the next: 25 ms (R151). -/
def scanPeriod : Nat := 25000
/-- From a scan's start to its completion: 272 µs, four conversions of 68 µs (R151). -/
def scanTime : Nat := 272
/-- One millisecond of the valve period (R140). -/
def millisecond : Nat := 1000

/-! Capacities. -/

/-- The transmit queue holds up to 8 frames (R29). -/
def queueCapacity : Nat := 8
/-- A frame is discarded at its eighth collision (R28). -/
def collisionLimit : Nat := 8
/-- The Round Journal holds at most 40 records (R43). -/
def journalCapacity : Nat := 40
/-- The Claim Queue holds at most 12 entries (R52). -/
def claimCapacity : Nat := 12
/-- Up to five entries stand above BASE (R130). -/
def stackCapacity : Nat := 5
/-- A node that has failed three attempts performs REJOIN (R113). -/
def attemptLimit : Nat := 3
/-- A data block carries 22 body bytes (R109). -/
def blockBytes : Nat := 22
/-- The history holds the codes of eight scans (R152). -/
def historyLength : Nat := 8
/-- A lost count saturates at 15 (R144). -/
def lostLimit : Nat := 15

/-! The cleared committed state. -/

/-- The sixteen station addresses in order. -/
def addresses : List Address := [0, 1, 2, 3, 4, 5, 6, 7, 8, 9, 10, 11, 12, 13, 14, 15]

/-- A figure cleared to value 0 with age 3 (R4, R16). -/
def clearedFigure : Figure := { value := 0, age := 3 }

/-- The eight figure slots, cleared. -/
def clearedFigures : List Figure := List.replicate 8 clearedFigure

/-- A Station Table entry after a reset (R16). -/
def clearedEntry : Entry :=
  { presence := .absent, role := none, heard := 0, miss := 0, verdict := .none, figures := clearedFigures,
    governing := .none, flame := false, dutyAllowed := false }

/-- The cleared committed state (R16, R68, R87, R98). -/
def clearedState : Committed :=
  { table := List.replicate 16 clearedEntry, queue := [], duty := none, offer := false, trips := 0,
    flaring := false, unburnt := 0 }

/-! The profile. -/

/-- Word 17's default: flags 3, 4, 7, 9 and 10 URGENT (R120, R168). -/
def defaultLevels : Word16 := 0x0698

/-- The role defaults of the twenty profile words (R120, laid out as R168): L 30 and F 70 in word 13, FH 90
and k 20 in word 14. -/
def defaultProfile (role : Role) : List Word16 :=
  let flags : Word16 := match role with
    | .flare => 0b100
    | .producer | .store | .consumer => 0
  [flags, 20, 1000, 1000, 100, 1000, 100, 0, 0, 0, 0, 45, 1000, 0x1E46, 0x5A14, 500, 500, defaultLevels, 0,
    1023]

/-- The role of the ROLE1 and ROLE0 straps; true is high (R117). -/
def strapRole (role1 role0 : Bool) : Role :=
  match role1, role0 with
  | false, false => .producer
  | false, true => .store
  | true, false => .consumer
  | true, true => .flare

end Sys2Proof.Machine
end

