-- ==== Sys2Proof/Machine/Operands.lean ====
section
/-! DEFINITION. Bytes, words and their fields: the operand forms of frames, snapshot and panel words
(R163, R165, R166). Multi-byte fields are sent most significant byte first. -/

namespace Sys2Proof.Machine

/-- A byte of a number, its low eight bits. -/
def byteOf (n : Nat) : Byte := BitVec.ofNat 8 n

/-- The two bytes of a word, most significant first. -/
def bytesOfWord (w : Word16) : List Byte := [w.extractLsb' 8 8, w.extractLsb' 0 8]

/-- The word of two bytes, most significant first. -/
def wordOfBytes (hi lo : Byte) : Word16 := hi ++ lo

/-- Words two bytes each; an odd last byte is no word and is left out. -/
def wordsOfBytes : List Byte → List Word16
  | hi :: lo :: rest => wordOfBytes hi lo :: wordsOfBytes rest
  | [_] => []
  | [] => []

/-- Byte k of a list, 0 past its end. -/
def byteAt (bytes : List Byte) (k : Nat) : Byte := bytes.getD k 0

/-- The word at byte k of a list, 0 past its end. -/
def wordAt (bytes : List Byte) (k : Nat) : Word16 := wordOfBytes (byteAt bytes k) (byteAt bytes (k + 1))

/-- `n` bytes from a list, padded with zeros. -/
def padded (n : Nat) (bytes : List Byte) : List Byte := bytes.take n ++ List.replicate (n - bytes.length) 0

/-- The `width` bits of `n` from bit `low` up. -/
def bitField (n low width : Nat) : Nat := n / 2 ^ low % 2 ^ width

/-- A flag as a number. -/
def flagBit (b : Bool) : Nat := if b then 1 else 0

/-- The word with bit n set, for a flag, a mask or an address. -/
def bitWord (n : Nat) : Word16 := 1#16 <<< n

/-! The four bytes of a command word (R166). -/

/-- Byte 0: the command code. -/
def commandCode (w : Word32) : Nat := (w.extractLsb' 24 8).toNat

/-- Byte 1: the first argument. -/
def argument1 (w : Word32) : Nat := (w.extractLsb' 16 8).toNat

/-- Bytes 1 and 2 as one word: the masks of ACK and MASK. -/
def argumentWord12 (w : Word32) : Word16 := w.extractLsb' 8 16

/-- Bytes 2 and 3 as one word: the values of PUSH and PROFILE-WORD. -/
def argumentWord23 (w : Word32) : Word16 := w.extractLsb' 0 16

end Sys2Proof.Machine
end

