-- ==== Sys2Proof/Machine/Journal.lean ====
section
/-! DEFINITION. Reading the Round Journal and the Station Table: senders, announcements, members of a station
set (R3, R43, R57, R74, R91). -/

namespace Sys2Proof.Machine

/-! Station sets, one bit for each address (R165). -/

/-- Whether the set holds an address. -/
def holdsStation (set : Word16) (a : Address) : Bool := set.getLsbD a.val

/-- The set with an address added. -/
def withStation (set : Word16) (a : Address) : Word16 := set ||| bitWord a.val

/-- The set with an address removed. -/
def withoutStation (set : Word16) (a : Address) : Word16 := set &&& ~~~bitWord a.val

/-! The Station Table. -/

/-- The entry of a station (R1). -/
def entryOf (table : List Entry) (a : Address) : Entry := table.getD a.val clearedEntry

/-- The table with a station's entry replaced; no entry is created, moved or removed (R1). -/
def withEntry (table : List Entry) (a : Address) (e : Entry) : List Entry := table.set a.val e

/-- The table with a station's last verdict written (R13). -/
def withVerdict (table : List Entry) (a : Address) (v : Verdict) : List Entry :=
  withEntry table a { entryOf table a with verdict := v }

/-! Records. -/

/-- The sender of a record; a GAP has none (R45). -/
def recordSender : Record → Option Address
  | .status a _ => some a
  | .claim a _ _ => some a
  | .yield a _ => some a
  | .duty a _ => some a
  | .announce a _ => some a
  | .trip a => some a
  | .clear a _ => some a
  | .gap => none

/-- The role a record announces for a station, if it is an ANNOUNCE of that station. -/
def announcedBy (a : Address) : Record → Option Role
  | .announce sender role => if sender = a then some role else none
  | .status _ _ | .claim _ _ _ | .yield _ _ | .duty _ _ | .trip _ | .clear _ _ | .gap => none

/-- Whether a station announced in these records. -/
def announcedIn (journal : List Record) (a : Address) : Bool := journal.any fun r => (announcedBy a r).isSome

/-- The role of the last ANNOUNCE of a station (R4). -/
def lastAnnounced (journal : List Record) (a : Address) : Option Role :=
  (journal.filterMap (announcedBy a)).getLast?

/-- The records that stand after the last ANNOUNCE of their sender, in journal order: what the presence,
claim, trip and duty stages read (R3, R57, R74, R91). -/
def afterAnnounce : List Record → List Record
  | [] => []
  | r :: rest =>
    match recordSender r with
    | none => r :: afterAnnounce rest
    | some a => if announcedIn rest a then afterAnnounce rest else r :: afterAnnounce rest

/-- The STATUS a record carries for a station, if it is a STATUS of that station. -/
def statusBy (a : Address) : Record → Option StatusBody
  | .status sender body => if sender = a then some body else none
  | .claim _ _ _ | .yield _ _ | .duty _ _ | .announce _ _ | .trip _ | .clear _ _ | .gap => none

/-- The STATUS records of a station, in journal order. -/
def statusesOf (journal : List Record) (a : Address) : List StatusBody := journal.filterMap (statusBy a)

/-- Whether a journal holds a STATUS record (R42). -/
def holdsStatus (journal : List Record) : Bool := addresses.any fun a => !(statusesOf journal a).isEmpty

end Sys2Proof.Machine
end

