-- ==== Sys2Proof/Machine/Claims.lean ====
section
/-! DEFINITION. Stage 3 of a close, the claim stage (R52 to R61). -/

namespace Sys2Proof.Machine

/-- d(t): the t-th draw of the list, 0 for tier 0 (R52). -/
def drawOf (q : QueueEntry) (tier : Nat) : Nat :=
  match tier with
  | 0 => 0
  | t + 1 => (q.draws.getD t 0).toNat

/-- Strictly ascending (R52). -/
def ascending : List Word16 → Bool
  | a :: b :: rest => decide (a < b) && ascending (b :: rest)
  | [_] => true
  | [] => true

/-- The contract check (R53). -/
def contractPasses (b : ClaimBody) : Bool :=
  decide (1 ≤ b.draws.length ∧ b.draws.length ≤ 5) &&
    b.draws.all (fun d => decide (1 ≤ d.toNat ∧ d.toNat ≤ 4095)) &&
    ascending b.draws &&
    decide (b.minMethane ≤ 100) &&
    decide (1 ≤ b.tier ∧ b.tier ≤ 5 ∧ b.tier ≤ b.draws.length)

/-- What the claim stage works on: the queue, the table's verdicts, the entries marked as claimed this round,
and the stations a verdict was written to (R57, R63, R67). -/
structure ClaimPass where
  queue : List QueueEntry
  table : List Entry
  marked : Word16
  written : Word16
deriving DecidableEq, Repr

/-- A verdict written to a station (R63). -/
def ClaimPass.write (p : ClaimPass) (a : Address) (v : Verdict) : ClaimPass :=
  { p with table := withVerdict p.table a v, written := withStation p.written a }

/-- The entry a station holds. -/
def queueEntryOf (queue : List QueueEntry) (a : Address) : Option QueueEntry :=
  queue.find? fun q => decide (q.claimant = a)

/-- The queue with a station's entry changed in place; it keeps its position (R55). -/
def changeEntry (queue : List QueueEntry) (a : Address) (f : QueueEntry → QueueEntry) : List QueueEntry :=
  queue.map fun q => if q.claimant = a then f q else q

/-- R61: the contract ends, the entries behind close up, and the last verdict is NONE. -/
def endContract (p : ClaimPass) (a : Address) : ClaimPass :=
  ClaimPass.write
    { p with queue := p.queue.filter (fun q => decide (q.claimant ≠ a)), marked := withoutStation p.marked a }
    a .none

/-- The grant clipped to a tier; a clip that lowers it clears the shortfall count (R59, R60). -/
def clipGrant (q : QueueEntry) (tier : Nat) : QueueEntry :=
  if tier < q.granted then { q with granted := tier, shortfall := false } else q

/-- The new entry a CLAIM creates (R58). -/
def newContract (a : Address) (round : Word16) (b : ClaimBody) : QueueEntry :=
  { claimant := a, requested := b.tier, draws := b.draws, minMethane := b.minMethane, granted := 0,
    shortfall := false, state := .waiting, joined := round }

/-- A CLAIM from a station that holds no entry: four tests in order (R58). -/
def claimNew (p : ClaimPass) (a : Address) (round : Word16) (b : ClaimBody) : ClaimPass :=
  if (entryOf p.table a).presence ≠ .live then p.write a .refusedNotLive
  else if (entryOf p.table a).role ≠ some .consumer then p.write a .refusedRole
  else if b.tier = 0 ∨ contractPasses b = false then p.write a .refusedTier
  else if claimCapacity ≤ p.queue.length then p.write a .refusedFull
  else { p with queue := p.queue ++ [newContract a round b], marked := withStation p.marked a }

/-- A CLAIM from a station that holds an entry (R59). -/
def claimHeld (p : ClaimPass) (a : Address) (b : ClaimBody) : ClaimPass :=
  if b.tier = 0 then endContract p a
  else if contractPasses b = false then p.write a .refusedTier
  else
    { p with
      queue := changeEntry p.queue a fun q =>
        clipGrant { q with requested := b.tier, draws := b.draws, minMethane := b.minMethane }
          (min b.tier b.draws.length)
      marked := withStation p.marked a }

/-- A YIELD from a station that holds an entry q (R60, R61). -/
def yieldHeld (p : ClaimPass) (a : Address) (q : QueueEntry) (tier : Nat) : ClaimPass :=
  if tier = 0 then endContract p a
  else if tier ≤ q.draws.length then
    { p with
      queue := changeEntry p.queue a fun q => clipGrant { q with requested := tier } tier
      marked := withStation p.marked a }
  else p.write a .refusedTier

/-- One record of the pass; records of other kinds are passed over (R57). -/
def claimRecord (p : ClaimPass) (r : Record) : ClaimPass :=
  match r with
  | .claim a round b =>
    match queueEntryOf p.queue a with
    | none => claimNew p a round b
    | some _ => claimHeld p a b
  | .yield a tier =>
    match queueEntryOf p.queue a with
    | none => p
    | some q => yieldHeld p a q tier
  | .status _ _ | .duty _ _ | .announce _ _ | .trip _ | .clear _ _ | .gap => p

/-- Whether a claimant may hold a contract (R56). -/
def mayHold (table : List Entry) (a : Address) : Bool :=
  decide ((entryOf table a).presence = .live ∧ (entryOf table a).role = some .consumer)

/-- Stage 3: removals, then the pass over the journal (R56, R57). -/
def claimStage (journal : List Record) (table : List Entry) (queue : List QueueEntry) : ClaimPass :=
  (afterAnnounce journal).foldl claimRecord
    { queue := queue.filter fun q => mayHold table q.claimant, table, marked := 0, written := 0 }

end Sys2Proof.Machine
end

