-- ==== Sys2Proof/Config.lean ====
section
/-! DEFINITION. The free values: what the spec leaves without a value. Each is a constant with no body, so
nothing can be proved of the value it takes. -/

namespace Sys2Proof

/-- The data bytes 2 and 3 of the reply to panel STATUS pages 1 to 4 for a channel whose latched record is
INVALID: R153 and R167 give such a channel no value. Applied to State.freeCount (log 10). -/
opaque Config.invalidReading : Nat → Word16

/-- The role a loaded station record's role code 5 to 7 stands for: the codes of R163 name none (log 9). -/
opaque Config.unnamedRole : Nat → Option Machine.Role

/-- The last verdict a loaded verdict code 10 to 15 stands for (log 9). -/
opaque Config.unnamedVerdict : Nat → Machine.Verdict

/-- The governing kind a loaded governing-kind code 11 to 15 stands for (log 9). -/
opaque Config.unnamedGoverning : Nat → Machine.GoverningKind

/-- The entry state a loaded entry-state byte above 3 stands for (log 9). -/
opaque Config.unnamedEntryState : Nat → Machine.EntryState

/-- The station a loaded claimant byte above 15 stands for (log 9). -/
opaque Config.unnamedAddress : Nat → Address

/-- The duty field a loaded duty byte 16 to 254 stands for (log 9). -/
opaque Config.unnamedDuty : Nat → Option Address

/-- The flag a loaded flag or shortfall byte above 1 stands for (log 9). -/
opaque Config.unnamedFlag : Nat → Bool

/-- The tier draw list a loaded list-length byte outside 0 to 5 stands for (log 9). -/
opaque Config.unnamedDraws : Nat → List Word16

end Sys2Proof
end

