-- ==== Sys2Proof/Machine/Codes.lean ====
section
/-! DEFINITION. The numeric codes that frames, snapshot and replies share (R163), both ways. -/

namespace Sys2Proof.Machine

/-- Role codes (R163): 0 is none. -/
def roleCode : Option Role → Nat
  | none => 0
  | some .producer => 1
  | some .store => 2
  | some .consumer => 3
  | some .flare => 4

/-- The role a code 1 to 4 names; a STATUS or ANNOUNCE with any other code is failed (R164). -/
def roleOfCode : Nat → Option Role
  | 1 => some .producer
  | 2 => some .store
  | 3 => some .consumer
  | 4 => some .flare
  | _ => none

/-- The role of a loaded station record; an unnamed code is a free value. -/
def loadedRole (code : Nat) : Option Role :=
  if code ≤ 4 then roleOfCode code else Config.unnamedRole code

/-- Presence codes (R163). -/
def presenceCode : Presence → Nat
  | .absent => 0
  | .joining => 1
  | .live => 2
  | .lost => 3

/-- The presence of a two-bit code (R163). -/
def presenceOfCode : Nat → Presence
  | 0 => .absent
  | 1 => .joining
  | 2 => .live
  | _ => .lost

/-- Last-verdict codes (R163). -/
def verdictCode : Verdict → Nat
  | .none => 0
  | .granted => 1
  | .partialGrant => 2
  | .deferred => 3
  | .suppressed => 4
  | .cut => 5
  | .refusedFull => 6
  | .refusedNotLive => 7
  | .refusedTier => 8
  | .refusedRole => 9

/-- The verdict of a loaded code; an unnamed code is a free value. -/
def loadedVerdict : Nat → Verdict
  | 0 => .none
  | 1 => .granted
  | 2 => .partialGrant
  | 3 => .deferred
  | 4 => .suppressed
  | 5 => .cut
  | 6 => .refusedFull
  | 7 => .refusedNotLive
  | 8 => .refusedTier
  | 9 => .refusedRole
  | n + 10 => Config.unnamedVerdict (n + 10)

/-- Pending-demand outcome codes: the last verdicts, and 10 for NOT-TAKEN (R163). -/
def outcomeCode : DemandOutcome → Nat
  | .verdict v => verdictCode v
  | .notTaken => 10

/-- Governing-kind codes (R163). -/
def governingCode : GoverningKind → Nat
  | .none => 0
  | .base => 1
  | .override .startHold => 2
  | .override .esdIsolate => 3
  | .override .tripIsolate => 4
  | .override .plantTripIsolate => 5
  | .override .rejoinHold => 6
  | .override .limit => 7
  | .override .hold => 8
  | .override .fixed => 9
  | .override .isolate => 10

/-- The governing kind a STATUS carries: codes 1 to 10 (R164). -/
def announcedGoverning : Nat → Option GoverningKind
  | 1 => some .base
  | 2 => some (.override .startHold)
  | 3 => some (.override .esdIsolate)
  | 4 => some (.override .tripIsolate)
  | 5 => some (.override .plantTripIsolate)
  | 6 => some (.override .rejoinHold)
  | 7 => some (.override .limit)
  | 8 => some (.override .hold)
  | 9 => some (.override .fixed)
  | 10 => some (.override .isolate)
  | _ => none

/-- The governing kind of a loaded station record; an unnamed code is a free value. -/
def loadedGoverning (code : Nat) : GoverningKind :=
  if code = 0 then .none else (announcedGoverning code).getD (Config.unnamedGoverning code)

/-- Entry-state codes (R163). -/
def entryStateCode : EntryState → Nat
  | .waiting => 0
  | .partialGrant => 1
  | .full => 2
  | .suppressed => 3

/-- The entry state of a loaded queue record; an unnamed code is a free value. -/
def loadedEntryState : Nat → EntryState
  | 0 => .waiting
  | 1 => .partialGrant
  | 2 => .full
  | 3 => .suppressed
  | n + 4 => Config.unnamedEntryState (n + 4)

/-- Join-state codes (R163). -/
def joinStateCode : JoinState → Nat
  | .profile => 0
  | .listening => 1
  | .joined => 2
  | .diverged => 3
  | .muted => 4

/-- Pending-stage codes (R163). -/
def demandStageCode : DemandStage → Nat
  | .idle => 0
  | .queued => 1
  | .taken => 2

/-- DUTY action codes (R163). -/
def dutyActionCode : DutyAction → Nat
  | .offer => 1
  | .withdraw => 2
  | .take => 3

/-- The DUTY action of a code 1 to 3 (R164). -/
def dutyActionOfCode : Nat → Option DutyAction
  | 1 => some .offer
  | 2 => some .withdraw
  | 3 => some .take
  | _ => none

/-- BLOCK 0 status codes (R163). -/
def blockStatusCode : BlockStatus → Nat
  | .clear => 0
  | .busy => 1
  | .notEligible => 2

/-- The BLOCK 0 status of a code 0 to 2 (R164). -/
def blockStatusOfCode : Nat → Option BlockStatus
  | 0 => some .clear
  | 1 => some .busy
  | 2 => some .notEligible
  | _ => none

/-- The PUSH codes of the panel kinds (R166). -/
def pushKindOfCode : Nat → Option OverrideKind
  | 0 => some .limit
  | 1 => some .hold
  | 2 => some .fixed
  | 3 => some .isolate
  | _ => none

/-- The PUSH code of a panel kind, as the POP reply carries it (R167); device kinds have none. -/
def pushCode : OverrideKind → Nat
  | .limit => 0
  | .hold => 1
  | .fixed => 2
  | .isolate => 3
  | .startHold | .esdIsolate | .tripIsolate | .plantTripIsolate | .rejoinHold => 0

/-- The address of a byte 0 to 15; none above (R164). -/
def addressOfCode (n : Nat) : Option Address :=
  if h : n < 16 then some ⟨n, h⟩ else none

/-- A loaded flag byte: 0x00 clear, 0x01 set; an unnamed value is a free value. -/
def loadedFlag (n : Nat) : Bool :=
  if n = 0 then false else if n = 1 then true else Config.unnamedFlag n

/-- A loaded claimant byte. -/
def loadedAddress (n : Nat) : Address :=
  (addressOfCode n).getD (Config.unnamedAddress n)

/-- A loaded duty byte: 0 to 15, or 0xFF for NONE (R165). -/
def loadedDuty (n : Nat) : Option Address :=
  if n = 255 then none else
    match addressOfCode n with
    | some a => some a
    | none => Config.unnamedDuty n

end Sys2Proof.Machine
end

