-- ==== Sys2Proof/Machine/Crc.lean ====
section
/-! DEFINITION. The CRC-16 of frames and digests (R100): generator x^16 + x^12 + x^5 + 1, initial value 0xFFFF,
bits of each byte most significant first, no final inversion. -/

namespace Sys2Proof.Machine

/-- The generator polynomial without its leading term. -/
def crcGenerator : Word16 := 0x1021

/-- The remainder shifted on by one bit. -/
def crcShift (c : Word16) : Word16 :=
  if c.msb then (c <<< 1) ^^^ crcGenerator else c <<< 1

/-- The remainder after one byte. -/
def crcByte (c : Word16) (b : Byte) : Word16 :=
  let c := c ^^^ (b.setWidth 16 <<< 8)
  crcShift (crcShift (crcShift (crcShift (crcShift (crcShift (crcShift (crcShift c)))))))

/-- The CRC-16 of a list of bytes. -/
def crc16 (bytes : List Byte) : Word16 := bytes.foldl crcByte 0xFFFF

end Sys2Proof.Machine
end

