-- ==== Sys2Proof/Machine/FrameFormat.lean ====
section
/-! DEFINITION. The layout of frames (R18, R163) and the judgement of a received frame (R20, R164). -/

namespace Sys2Proof.Machine

/-! Figure slots. -/

/-- The widths in bytes of a role's figure slots, in order (R163). -/
def slotWidths : Role → List Nat
  | .producer => [2, 1]
  | .store => [2, 2, 1, 1, 1, 1, 2]
  | .consumer => [2]
  | .flare => [2, 2]

/-- The slots of an entry's role; none has no slot. -/
def roleSlots : Option Role → List Nat
  | none => []
  | some r => slotWidths r

/-- A slot's value in its width. -/
def slotBytes (width : Nat) (v : Word16) : List Byte :=
  if width = 1 then [v.setWidth 8] else bytesOfWord v

/-- Figure values in the slots of the given widths; a missing value is sent as 0. -/
def slotsBytes : List Nat → List Word16 → List Byte
  | [], _ => []
  | w :: ws, vs => slotBytes w (vs.headD 0) ++ slotsBytes ws vs.tail

/-- The figure values that slots of the given widths hold. -/
def slotsOfBytes : List Nat → List Byte → List Word16
  | [], _ => []
  | w :: ws, bytes =>
    (if w = 1 then (byteAt bytes 0).setWidth 16 else wordAt bytes 0) :: slotsOfBytes ws (bytes.drop w)

/-- The presence bits of a STATUS: bit k set when slot k + 1 is present (R163). -/
def presenceBits : List (Option Word16) → Nat
  | [] => 0
  | f :: fs => flagBit f.isSome + 2 * presenceBits fs

/-- The figures of a STATUS: a value where its presence bit is set, absent where it is clear. -/
def figuresOfSlots : List Word16 → Nat → List (Option Word16)
  | [], _ => []
  | v :: vs, bits => (if bits % 2 = 1 then some v else none) :: figuresOfSlots vs (bits / 2)

/-! Sending. -/

/-- The kind codes (R163). -/
def kindCode : FrameBody → Nat
  | .status _ => 0x1
  | .mark => 0x2
  | .claim _ => 0x3
  | .yield _ => 0x4
  | .duty _ => 0x5
  | .announce _ => 0x6
  | .trip => 0x7
  | .clear _ => 0x8
  | .ask _ _ => 0x9
  | .blockHeader _ _ _ _ _ _ => 0xA
  | .blockData _ _ _ _ => 0xA

/-- The payload bytes of a frame (R163). -/
def payloadBytes : FrameBody → List Byte
  | .status b =>
    [byteOf (roleCode (some b.role))] ++ bytesOfWord b.digest ++
      [byteOf (governingCode b.governing), byteOf (flagBit b.flame + 2 * flagBit b.dutyAllowed),
        byteOf (presenceBits b.figures)] ++
      slotsBytes (slotWidths b.role) (b.figures.map (·.getD 0))
  | .mark => []
  | .claim b => [byteOf b.tier, byteOf b.minMethane] ++ b.draws.flatMap bytesOfWord
  | .yield tier => [byteOf tier]
  | .duty action => [byteOf (dutyActionCode action)]
  | .announce role => [byteOf (roleCode (some role))]
  | .trip => []
  | .clear target => [byteOf target.val]
  | .ask server attempt => [byteOf server.val, byteOf attempt]
  | .blockHeader addressee attempt status count round digest =>
    [byteOf (16 * addressee.val + attempt % 16), 0, byteOf (blockStatusCode status), byteOf count] ++
      bytesOfWord round ++ bytesOfWord digest
  | .blockData addressee attempt index bytes =>
    [byteOf (16 * addressee.val + attempt % 16), byteOf index] ++ bytes

/-- A frame's characters up to its CRC: header and payload (R163). -/
def frameText (sender : Address) (round : Word16) (body : FrameBody) : List Byte :=
  let payload := payloadBytes body
  [byteOf (16 * kindCode body + sender.val)] ++ bytesOfWord round ++ [byteOf payload.length] ++ payload

/-- A frame's characters, the CRC over header and payload last (R19, R163). -/
def frameChars (sender : Address) (round : Word16) (body : FrameBody) : List Byte :=
  let text := frameText sender round body
  text ++ bytesOfWord (crc16 text)

/-! Receiving. -/

/-- A STATUS payload: role 1 to 4, the length permitted for that role, governing kind 1 to 10 (R163, R164). -/
def parseStatus (p : List Byte) : Option FrameBody :=
  match roleOfCode (byteAt p 0).toNat, announcedGoverning (byteAt p 3).toNat with
  | some role, some governing =>
    if p.length = 6 + (slotWidths role).sum then
      some (.status
        { role, digest := wordAt p 1, governing,
          flame := (byteAt p 4).getLsbD 0, dutyAllowed := (byteAt p 4).getLsbD 1,
          figures := figuresOfSlots (slotsOfBytes (slotWidths role) (p.drop 6)) (byteAt p 5).toNat })
    else none
  | _, _ => none

/-- A CLAIM payload: 4, 6, 8, 10 or 12 bytes; the list length is (length − 2) / 2 (R163, R164). -/
def parseClaim (p : List Byte) : Option FrameBody :=
  if 4 ≤ p.length ∧ p.length ≤ 12 ∧ p.length % 2 = 0 then
    some (.claim
      { tier := (byteAt p 0).toNat, minMethane := (byteAt p 1).toNat, draws := wordsOfBytes (p.drop 2) })
  else none

/-- A BLOCK payload: index 0 of 8 bytes with a status 0 to 2, index 1 to 23 of 3 to 24 bytes (R163, R164). -/
def parseBlock (p : List Byte) : Option FrameBody :=
  let addressee : Address := Fin.ofNat 16 ((byteAt p 0).toNat / 16)
  let attempt := (byteAt p 0).toNat % 16
  let index := (byteAt p 1).toNat
  if index = 0 then
    if p.length = 8 then
      (blockStatusOfCode (byteAt p 2).toNat).map fun status =>
        .blockHeader addressee attempt status (byteAt p 3).toNat (wordAt p 4) (wordAt p 6)
    else none
  else if index ≤ 23 ∧ 3 ≤ p.length ∧ p.length ≤ 24 then some (.blockData addressee attempt index (p.drop 2))
  else none

/-- The contents of a frame from its kind code and payload, by the permitted lengths of R163 and the field
checks of R164; none where a check fails. -/
def parsePayload (kind : Nat) (p : List Byte) : Option FrameBody :=
  match kind with
  | 0x1 => parseStatus p
  | 0x2 => if p.length = 0 then some .mark else none
  | 0x3 => parseClaim p
  | 0x4 => if p.length = 1 then some (.yield (byteAt p 0).toNat) else none
  | 0x5 => if p.length = 1 then (dutyActionOfCode (byteAt p 0).toNat).map .duty else none
  | 0x6 => if p.length = 1 then (roleOfCode (byteAt p 0).toNat).map .announce else none
  | 0x7 => if p.length = 0 then some .trip else none
  | 0x8 => if p.length = 1 then (addressOfCode (byteAt p 0).toNat).map .clear else none
  | 0x9 =>
    if p.length = 2 then (addressOfCode (byteAt p 0).toNat).map (.ask · (byteAt p 1).toNat) else none
  | 0xA => parseBlock p
  | _ => none

/-- The judgement of a frame at its end (R20): good with its sender, header round and contents, or failed. -/
def judgeFrame (chars : List Byte) (framingError : Bool) : Option GoodFrame :=
  let n := chars.length
  if framingError = true ∨ n < 6 ∨ 30 < n then none
  else if (byteAt chars 3).toNat + 6 ≠ n then none
  else if crc16 (chars.take (n - 2)) ≠ wordAt chars (n - 2) then none
  else
    (parsePayload ((byteAt chars 0).toNat / 16) ((chars.drop 4).take (n - 6))).map fun body =>
      { sender := Fin.ofNat 16 (byteAt chars 0).toNat, round := wordAt chars 1, body }

end Sys2Proof.Machine
end

