-- ==== Sys2Proof/Machine/Snapshot.lean ====
section
/-! DEFINITION. The snapshot body, both ways, and the digest over it (R99, R100, R165). -/

namespace Sys2Proof.Machine

/-- The figure in slot i (from 0) of an entry. -/
def entryFigure (e : Entry) (i : Nat) : Figure := e.figures.getD i clearedFigure

/-- The age shown for slot i: 3 for every slot of an ABSENT entry, the slot's age where the role holds it,
else 0 (R165). -/
def shownAge (e : Entry) (i : Nat) : Nat :=
  if e.presence = .absent then 3 else if i < (roleSlots e.role).length then (entryFigure e i).age % 4 else 0

/-- The value shown for slot i: 0 where the role does not hold it (R99). -/
def shownValue (e : Entry) (i : Nat) : Word16 :=
  if i < (roleSlots e.role).length then (entryFigure e i).value else 0

/-- Four age fields of two bits, the first in bits 7:6 (R165). -/
def ageByte (e : Entry) (first : Nat) : Byte :=
  byteOf (64 * shownAge e first + 16 * shownAge e (first + 1) + 4 * shownAge e (first + 2)
    + shownAge e (first + 3))

/-- The 16 bytes of a station record (R165). For an ABSENT entry bytes 0 to 2 are 0, its verdict included
(log 22). -/
def stationRecord (e : Entry) : List Byte :=
  let head : List Byte :=
    if e.presence = .absent then [0, 0, 0]
    else
      [byteOf (presenceCode e.presence + 4 * roleCode e.role + 32 * (e.heard % 2) + 64 * (e.miss % 4)),
        byteOf (verdictCode e.verdict + 16 * governingCode e.governing),
        byteOf (flagBit e.flame + 2 * flagBit e.dutyAllowed)]
  let slots := if e.presence = .absent then [] else slotsBytes (roleSlots e.role) (e.figures.map (·.value))
  head ++ [ageByte e 0, ageByte e 4] ++ padded 11 slots

/-- The 6 bytes of the misc record (R165). -/
def miscRecord (c : Committed) : List Byte :=
  let duty : Byte := match c.duty with
    | some a => byteOf a.val
    | none => 0xFF
  [duty, byteOf (flagBit c.offer)] ++ bytesOfWord c.trips ++ [byteOf (flagBit c.flaring), byteOf c.queue.length]

/-- The 19 bytes of a queue record (R165). -/
def queueRecord (q : QueueEntry) : List Byte :=
  [byteOf q.claimant.val, byteOf q.requested, byteOf q.draws.length] ++
    padded 10 (q.draws.flatMap bytesOfWord) ++
    [byteOf q.minMethane, byteOf q.granted, byteOf (flagBit q.shortfall), byteOf (entryStateCode q.state)] ++
    bytesOfWord q.joined

/-- The snapshot body of a committed state (R99). -/
def snapshotBody (c : Committed) : List Byte :=
  c.table.flatMap stationRecord ++ miscRecord c ++ c.queue.flatMap queueRecord

/-- The digest of a committed state (R100). -/
def stateDigest (c : Committed) : Word16 := crc16 (snapshotBody c)

/-- The body length for a queue count (R99). -/
def bodyLength (count : Nat) : Nat := 262 + 19 * count

/-- The queue count a body's misc record holds (R112, R165). -/
def bodyQueueCount (body : List Byte) : Nat := (byteAt body 261).toNat

/-! Loading. -/

/-- The age of slot i from the two age bytes of a station record. -/
def loadedAge (bytes : List Byte) (i : Nat) : Nat := bitField (byteAt bytes (3 + i / 4)).toNat (6 - 2 * (i % 4)) 2

/-- The figures of a loaded station record: the role's slots from the record, the others cleared. -/
def loadedFigures (role : Option Role) (bytes : List Byte) : List Figure :=
  let values := slotsOfBytes (roleSlots role) (bytes.drop 5)
  let held := values.zipIdx.map fun p => { value := p.1, age := loadedAge bytes p.2 : Figure }
  held ++ List.replicate (8 - held.length) clearedFigure

/-- The Station Table entry of a loaded station record (R165). -/
def loadedEntry (bytes : List Byte) : Entry :=
  let b0 := (byteAt bytes 0).toNat
  let b1 := (byteAt bytes 1).toNat
  let role := loadedRole (bitField b0 2 3)
  { presence := presenceOfCode (bitField b0 0 2), role, heard := bitField b0 5 1, miss := bitField b0 6 2,
    verdict := loadedVerdict (bitField b1 0 4), figures := loadedFigures role bytes,
    governing := loadedGoverning (bitField b1 4 4),
    flame := (byteAt bytes 2).getLsbD 0, dutyAllowed := (byteAt bytes 2).getLsbD 1 }

/-- The tier draw list of a loaded queue record (R165). -/
def loadedDraws (bytes : List Byte) : List Word16 :=
  let n := (byteAt bytes 2).toNat
  if n ≤ 5 then wordsOfBytes ((bytes.drop 3).take (2 * n)) else Config.unnamedDraws n

/-- The Claim Queue entry of a loaded queue record (R165). -/
def loadedQueueEntry (bytes : List Byte) : QueueEntry :=
  { claimant := loadedAddress (byteAt bytes 0).toNat, requested := (byteAt bytes 1).toNat,
    draws := loadedDraws bytes, minMethane := (byteAt bytes 13).toNat, granted := (byteAt bytes 14).toNat,
    shortfall := loadedFlag (byteAt bytes 15).toNat, state := loadedEntryState (byteAt bytes 16).toNat,
    joined := wordAt bytes 17 }

/-- The committed state of a loaded body (R112). The body does not carry the unburnt figure: the load
computes it afresh (R85). -/
def loadedState (body : List Byte) : Committed :=
  { table := addresses.map fun a => loadedEntry ((body.drop (16 * a.val)).take 16)
    queue := (List.range (bodyQueueCount body)).map fun k => loadedQueueEntry ((body.drop (262 + 19 * k)).take 19)
    duty := loadedDuty (byteAt body 256).toNat
    offer := loadedFlag (byteAt body 257).toNat
    trips := wordAt body 258
    flaring := loadedFlag (byteAt body 260).toNat
    unburnt := 0 }

end Sys2Proof.Machine
end

