-- ==== Sys2Proof/Machine/LeadDuty.lean ====
section
/-! DEFINITION. Stage 5 of a close, the lead flare duty (R88 to R93). -/

namespace Sys2Proof.Machine

/-- The committed burn capacity of a flare, its first figure slot; 0 at any other role (R8). -/
def burnCapacity (e : Entry) : Nat := if e.role = some .flare then (entryFigure e 0).value.toNat else 0

/-- Eligible: LIVE, a FLARE, burn capacity above 0 (R84, R89). -/
def eligible (e : Entry) : Bool :=
  decide (e.presence = .live ∧ e.role = some .flare ∧ 0 < burnCapacity e)

/-- Candidate: eligible with the duty-allowed mark set (R89). -/
def candidate (e : Entry) : Bool := eligible e && e.dutyAllowed

/-- The lowest-address candidate that a test admits (R92, R93). -/
def lowestCandidate (table : List Entry) (counted : Address → Bool) : Option Address :=
  addresses.find? fun a => counted a && candidate (entryOf table a)

/-- The duty field and the offer flag (R88); in the offer walk, also whether the walk has ended. -/
structure DutyState where
  duty : Option Address
  offer : Bool
deriving DecidableEq, Repr

/-- Step 1: a holder that is not LIVE loses the duty and its offer (R90). -/
def vacateDuty (table : List Entry) (d : DutyState) : DutyState :=
  match d.duty with
  | none => d
  | some a => if (entryOf table a).presence = .live then d else { duty := none, offer := false }

/-- Step 2: the offer walk; the offer flag is the live-offer mark, and the first applied TAKE ends the walk
(R91). -/
def offerWalk (table : List Entry) (d : DutyState) : List Record → DutyState
  | [] => d
  | .duty a .offer :: rest => offerWalk table (if d.duty = some a then { d with offer := true } else d) rest
  | .duty a .withdraw :: rest => offerWalk table (if d.duty = some a then { d with offer := false } else d) rest
  | .duty a .take :: rest =>
    if d.offer = true ∧ d.duty ≠ some a ∧ candidate (entryOf table a) = true then
      { duty := some a, offer := false }
    else offerWalk table d rest
  | .status _ _ :: rest | .claim _ _ _ :: rest | .yield _ _ :: rest | .announce _ _ :: rest | .trip _ :: rest
  | .clear _ _ :: rest | .gap :: rest => offerWalk table d rest

/-- Step 3: automatic transfer from a holder at capacity 0 at the opening and after the presence stage
(R92). -/
def transferDuty (opening table : List Entry) (d : DutyState) : DutyState :=
  match d.duty with
  | none => d
  | some a =>
    if burnCapacity (entryOf opening a) = 0 ∧ burnCapacity (entryOf table a) = 0 then
      { duty := lowestCandidate table fun b => decide (b ≠ a), offer := false }
    else d

/-- Step 4: a vacancy goes to the lowest-address candidate (R93). -/
def fillDuty (table : List Entry) (d : DutyState) : DutyState :=
  match d.duty with
  | some _ => d
  | none => { duty := lowestCandidate table fun _ => true, offer := false }

/-- Stage 5. -/
def dutyStage (journal : List Record) (opening table : List Entry) (d : DutyState) : DutyState :=
  fillDuty table (transferDuty opening table (offerWalk table (vacateDuty table d) (afterAnnounce journal)))

end Sys2Proof.Machine
end

