-- ==== Sys2Proof/Machine/Allocation.lean ====
section
/-! DEFINITION. Stage 6 of a close, the allocation (R69 to R84). Quantities are exact integers; every division
is floor division. -/

namespace Sys2Proof.Machine

/-- A figure of an entry as a number. -/
def figureOf (e : Entry) (slot : Nat) : Nat := (entryFigure e slot).value.toNat

/-- The entries of the LIVE stations of a role, by ascending address. -/
def liveOfRole (table : List Entry) (role : Role) : List (Address × Entry) :=
  (addresses.map fun a => (a, entryOf table a)).filter fun p =>
    decide (p.2.presence = .live ∧ p.2.role = some role)

/-! Production and methane (R70). -/

/-- Production P. -/
def production (table : List Entry) : Nat :=
  ((liveOfRole table .producer).map fun p => figureOf p.2 0).sum

/-- Plant methane Q, the production-weighted mean; 0 when P is 0. -/
def plantMethane (table : List Entry) : Nat :=
  if production table = 0 then 0
  else ((liveOfRole table .producer).map fun p => figureOf p.2 0 * figureOf p.2 1).sum / production table

/-! The holder (R71, R72). The slots of a store: stored volume, capacity, L, F, FH, k, M. -/

/-- The stores taken into account (R71). -/
def countedStores (table : List Entry) : List Entry :=
  ((liveOfRole table .store).map (·.2)).filter fun e => decide (0 < figureOf e 1)

/-- The holder as a close sees it: its fill and the bands, k and M of the lowest-address counted store. -/
structure Holder where
  fill : Nat
  low : Nat
  flareBand : Nat
  fullBand : Nat
  drawdown : Nat
  discharge : Nat
deriving DecidableEq, Repr

/-- The holder; none is unknown (R71, R72). -/
def holderOf (table : List Entry) : Option Holder :=
  match countedStores table with
  | [] => none
  | first :: rest =>
    let stores := first :: rest
    some
      { fill := min 100 ((stores.map (figureOf · 0)).sum * 100 / (stores.map (figureOf · 1)).sum)
        low := figureOf first 2, flareBand := figureOf first 3, fullBand := figureOf first 4
        drawdown := figureOf first 5, discharge := figureOf first 6 }

/-- The holder allowance D, a signed flow (R72). -/
def holderAllowance : Option Holder → Int
  | none => 0
  | some h =>
    if h.low < h.fill then (min h.discharge ((h.fill - h.low) * h.drawdown) : Nat)
    else -(((h.low - h.fill) * h.drawdown : Nat) : Int)

/-- The available gas A = max(0, P + D) (R73). -/
def availableGas (table : List Entry) : Nat :=
  ((production table : Int) + holderAllowance (holderOf table)).toNat

/-! The grants. -/

/-- The trip close: grant 0, shortfall count 0, SUPPRESSED (R75). -/
def tripEntry (q : QueueEntry) : QueueEntry := { q with granted := 0, shortfall := false, state := .suppressed }

/-- The fit: the highest tier up to t with cum + d(t) ≤ A, else 0 (R78). -/
def fitTier (gas cum : Nat) (q : QueueEntry) : Nat → Nat
  | 0 => 0
  | t + 1 => if cum + drawOf q (t + 1) ≤ gas then t + 1 else fitTier gas cum q t

/-- The granted tier and shortfall count from the fit (R79). -/
def grantAfter (q : QueueEntry) (fit : Nat) : Nat × Bool :=
  if q.granted ≤ fit then (fit, false)
  else if q.shortfall then (fit, false)
  else (q.granted, true)

/-- Whether a grant is cut: short with the shortfall count already set (R79, third row). -/
def grantCut (q : QueueEntry) (fit : Nat) : Bool := decide (fit < q.granted) && q.shortfall

/-- The entry state a grant gives (R80). -/
def stateOfGrant (granted requested : Nat) : EntryState :=
  if granted = 0 then .waiting else if granted = requested then .full else .partialGrant

/-- The verdict of a marked entry by its state (R80). -/
def verdictOfState : EntryState → Verdict
  | .full => .granted
  | .partialGrant => .partialGrant
  | .waiting => .deferred
  | .suppressed => .suppressed

/-- One entry of the walk: the entry after it, the running total after it, and the verdict written (R77 to
R80). -/
def walkEntry (methane gas : Nat) (marked : Word16) (cum : Nat) (q : QueueEntry) :
    QueueEntry × Nat × Option Verdict :=
  let claimed := holdsStation marked q.claimant
  if methane < q.minMethane then
    ({ q with granted := 0, shortfall := false, state := .suppressed }, cum,
      if 0 < q.granted ∨ claimed = true then some .suppressed else none)
  else
    let fit := fitTier gas cum q q.requested
    let granted := (grantAfter q fit).1
    let state := stateOfGrant granted q.requested
    ({ q with granted, shortfall := (grantAfter q fit).2, state }, cum + drawOf q granted,
      if grantCut q fit then some .cut else if claimed then some (verdictOfState state) else none)

/-- The grant walk from the head of the queue: the queue after it, cum as it ended, and the verdicts
(R77). -/
def grantWalk (methane gas : Nat) (marked : Word16) :
    Nat → List QueueEntry → List QueueEntry × Nat × List (Address × Verdict)
  | cum, [] => ([], cum, [])
  | cum, q :: rest =>
    let step := walkEntry methane gas marked cum q
    let tail := grantWalk methane gas marked step.2.1 rest
    (step.1 :: tail.1, tail.2.1,
      match step.2.2 with
      | none => tail.2.2
      | some v => (q.claimant, v) :: tail.2.2)

/-! Flaring. -/

/-- The flaring flag after a close whose trip set is empty (R82). -/
def flaringAfter (holder : Option Holder) (produced cum : Nat) (before : Bool) : Bool :=
  match holder with
  | some h => if h.flareBand ≤ h.fill then true else if h.fill + 5 < h.flareBand then false else before
  | none => decide (cum < produced)

/-- The eligible flares with their capacities, by ascending address (R84). -/
def eligibleFlares (table : List Entry) : List (Address × Nat) :=
  ((addresses.map fun a => (a, entryOf table a)).filter fun p => eligible p.2).map
    fun p => (p.1, burnCapacity p.2)

/-- The burn target B (R83). -/
def burnTarget (table : List Entry) (trips : Word16) (flaring : Bool) (cum : Nat) : Nat :=
  if trips ≠ 0 then production table
  else
    let surplus := if flaring then availableGas table - cum else 0
    match holderOf table with
    | some h => if h.fullBand ≤ h.fill then ((eligibleFlares table).map (·.2)).sum else surplus
    | none => surplus

/-- The order of placement: the duty holder first, the others by ascending address (R84). -/
def placementOrder (duty : Option Address) (flares : List (Address × Nat)) : List (Address × Nat) :=
  flares.filter (fun p => decide (duty = some p.1)) ++ flares.filter (fun p => decide (duty ≠ some p.1))

/-- Placement: each flare takes min of what remains and its capacity; the rest is unburnt (R84). -/
def placeBurn : Nat → List (Address × Nat) → List (Address × Nat) × Nat
  | rest, [] => ([], rest)
  | rest, (a, capacity) :: more =>
    let tail := placeBurn (rest - min rest capacity) more
    ((a, min rest capacity) :: tail.1, tail.2)

/-- Steps 7 and 8 of R69: placed burns and the unburnt figure. -/
def placement (c : Committed) (cum : Nat) : List (Address × Nat) × Nat :=
  placeBurn (burnTarget c.table c.trips c.flaring cum) (placementOrder c.duty (eligibleFlares c.table))

/-- A station's placed burn, 0 where none was placed (R84). -/
def placedBurn (placed : List (Address × Nat)) (a : Address) : Nat :=
  ((placed.find? fun p => decide (p.1 = a)).map (·.2)).getD 0

/-- What stage 6 leaves: the committed state, the stations a verdict was written to at this close, and the
placed burns. -/
structure Allocated where
  state : Committed
  written : Word16
  placed : List (Address × Nat)
deriving DecidableEq, Repr

/-- The verdicts of the walk written to the table (R80). -/
def writeVerdicts (table : List Entry) (verdicts : List (Address × Verdict)) : List Entry :=
  verdicts.foldl (fun t p => withVerdict t p.1 p.2) table

/-- Stage 6 on the committed state the earlier stages left, with the marks and verdict writes of stage 3. -/
def allocationStage (c : Committed) (marked written : Word16) : Allocated :=
  if c.trips ≠ 0 then
    let c' := { c with queue := c.queue.map tripEntry }
    let p := placement c' 0
    { state := { c' with unburnt := p.2 }, written, placed := p.1 }
  else
    let walk := grantWalk (plantMethane c.table) (availableGas c.table) marked 0 c.queue
    let c' :=
      { c with
        table := writeVerdicts c.table walk.2.2
        queue := walk.1
        flaring := flaringAfter (holderOf c.table) (production c.table) walk.2.1 c.flaring }
    let p := placement c' walk.2.1
    { state := { c' with unburnt := p.2 }, written := walk.2.2.foldl (fun w v => withStation w v.1) written,
      placed := p.1 }

/-- The draws of the granted tiers of all entries: cum at a load (R85). -/
def grantedDraw (queue : List QueueEntry) : Nat := (queue.map fun q => drawOf q q.granted).sum

end Sys2Proof.Machine
end

