-- ==== Sys2Proof/Machine/Presence.lean ====
section
/-! DEFINITION. Stage 2 of a close, the presence stage (R3 to R12). -/

namespace Sys2Proof.Machine

/-- The entry an ANNOUNCE leaves (R4). -/
def announcedEntry (role : Role) : Entry :=
  { presence := .joining, role := some role, heard := 0, miss := 0, verdict := .none,
    figures := clearedFigures, governing := .none, flame := false, dutyAllowed := false }

/-- The role a STATUS must carry to be counted: the entry's at a JOINING or LIVE entry; at an ABSENT or LOST
one any role is counted, and the first record settles it (R3, R7; log 8). -/
def countedRole (e : Entry) (first : StatusBody) : Option Role :=
  match e.presence with
  | .joining | .live => e.role
  | .absent | .lost => some first.role

/-- The counted STATUS records among a station's records after its last ANNOUNCE (R3). -/
def countedStatuses (e : Entry) (bodies : List StatusBody) : List StatusBody :=
  match bodies with
  | [] => []
  | first :: _ => bodies.filter fun b => decide (some b.role = countedRole e first)

/-- Presence, heard count and miss count after a close (R5). -/
def presenceStep (e : Entry) (counted : Bool) : Presence × Nat × Nat :=
  match e.presence, counted with
  | .absent, false => (.absent, 0, 0)
  | .absent, true => (.joining, 1, 0)
  | .joining, false => (.joining, 0, 0)
  | .joining, true => if e.heard = 0 then (.joining, 1, 0) else (.live, 0, 0)
  | .live, true => (.live, 0, 0)
  | .live, false => if e.miss < 2 then (.live, 0, e.miss + 1) else (.lost, 0, 3)
  | .lost, false => (.lost, 0, 3)
  | .lost, true => (.joining, 1, 0)

/-- A figure without a present value at a close (R10). -/
def agedFigure (f : Figure) : Figure :=
  let age := min 3 (f.age + 1)
  { value := if age = 3 then 0 else f.value, age }

/-- The figures after one STATUS: a present field replaces the figure with age 0, an absent field leaves it
(R9). -/
def withFields : List Figure → List (Option Word16) → List Figure
  | _ :: fs, some v :: vs => { value := v, age := 0 } :: withFields fs vs
  | f :: fs, none :: vs => f :: withFields fs vs
  | fs, [] => fs
  | [], _ :: _ => []

/-- The figures after the counted STATUS records of a close: every figure ages, and the fields of the records
are then applied in journal order (R9, R10). -/
def figuresAfter (figures : List Figure) (counted : List StatusBody) : List Figure :=
  counted.foldl (fun fs b => withFields fs b.figures) (figures.map agedFigure)

/-- The entry after a close without a counted STATUS (R5, R10, R11). -/
def missedEntry (e : Entry) : Entry :=
  let p := presenceStep e false
  { e with
    presence := p.1, heard := p.2.1, miss := p.2.2
    figures := if e.presence = .absent then e.figures else e.figures.map agedFigure }

/-- The entry after a close with counted STATUS records, the last of them `last` (R5, R7, R9, R11, R12, R89). A
list of another role is not carried over (R8). -/
def heardEntry (e : Entry) (counted : List StatusBody) (last : StatusBody) : Entry :=
  let p := presenceStep e true
  let kept := if e.role = some last.role then e.figures else clearedFigures
  { e with
    presence := p.1, heard := p.2.1, miss := p.2.2, role := some last.role
    figures := figuresAfter kept counted
    governing := last.governing
    flame := decide (last.role = .flare) && last.flame
    dutyAllowed := decide (last.role = .flare) && last.dutyAllowed }

/-- A station's entry after the presence stage, from its entry at the opening of the close. -/
def presenceEntry (journal : List Record) (a : Address) (opening : Entry) : Entry :=
  let e := match lastAnnounced journal a with
    | some role => announcedEntry role
    | none => opening
  let counted := countedStatuses e (statusesOf (afterAnnounce journal) a)
  match counted.getLast? with
  | none => missedEntry e
  | some last => heardEntry e counted last

/-- Stage 2: all sixteen entries. -/
def presenceStage (journal : List Record) (table : List Entry) : List Entry :=
  addresses.map fun a => presenceEntry journal a (entryOf table a)

/-- STATION-LIVE is raised if any entry went from JOINING to LIVE (R14). -/
def anyBecameLive (before after : List Entry) : Bool :=
  addresses.any fun a =>
    decide ((entryOf before a).presence = .joining ∧ (entryOf after a).presence = .live)

/-- STATION-LOST is raised if any entry that was LIVE is LIVE no longer (R14). -/
def anyLeftLive (before after : List Entry) : Bool :=
  addresses.any fun a => decide ((entryOf before a).presence = .live ∧ (entryOf after a).presence ≠ .live)

end Sys2Proof.Machine
end

