-- ==== Sys2Proof/Machine/TripSet.lean ====
section
/-! DEFINITION. Stage 4 of a close, the trip set (R74). -/

namespace Sys2Proof.Machine

/-- Whether a CLEAR from a sender may remove a target: its own, or one that is LOST or ABSENT (R74). -/
def clearApplies (table : List Entry) (sender target : Address) : Bool :=
  decide (sender = target ∨ (entryOf table target).presence = .lost ∨ (entryOf table target).presence = .absent)

/-- One record of the second pass (R74). -/
def tripRecord (table : List Entry) (trips : Word16) (r : Record) : Word16 :=
  match r with
  | .trip a => withStation trips a
  | .clear a target => if clearApplies table a target then withoutStation trips target else trips
  | .status _ _ | .claim _ _ _ | .yield _ _ | .duty _ _ | .announce _ _ | .gap => trips

/-- The first pass: every station that announced leaves the set (R74). -/
def withoutAnnounced (journal : List Record) (trips : Word16) : Word16 :=
  addresses.foldl (fun t a => if announcedIn journal a then withoutStation t a else t) trips

/-- Stage 4. -/
def tripStage (journal : List Record) (table : List Entry) (trips : Word16) : Word16 :=
  (afterAnnounce journal).foldl (tripRecord table) (withoutAnnounced journal trips)

end Sys2Proof.Machine
end

