-- ==== Sys2Proof/Machine/Close.lean ====
section
/-! DEFINITION. Stages 2 to 6 of a close as one function of the committed state and the journal (R49). It has
no other argument, so two nodes that hold the same committed state and take in the same journal leave the
close with the same committed state (R100). -/

namespace Sys2Proof.Machine

/-- Stages 2 to 6 (R49), each on the committed state as the stages before it left it. -/
def closeState (c : Committed) (journal : List Record) : Allocated :=
  let table := presenceStage journal c.table
  let claims := claimStage journal table c.queue
  let trips := tripStage journal claims.table c.trips
  let duty := dutyStage journal c.table claims.table { duty := c.duty, offer := c.offer }
  allocationStage
    { c with table := claims.table, queue := claims.queue, trips, duty := duty.duty, offer := duty.offer }
    claims.marked claims.written

end Sys2Proof.Machine
end

