-- ==== Sys2Proof/Machine/Flags.lean ====
section
/-! DEFINITION. The event flags of the Panel Port, the attention lines that follow them, and the counters
that saturate (R161, R168, R35, R144). -/

namespace Sys2Proof.Machine

/-- The sixteen event flags, in the order that numbers them 0 to 15 (R161). -/
inductive EventFlag
  | verdict | grantChanged | stationLive | stationLost | diverged | transferDone | transferFailed | tripChanged
  | dutyChanged | inputLost | addressClash | stackDrop | notTaken | sampleInvalid | auxChange | joinChange
deriving DecidableEq, Repr

/-- The number of a flag (R161). -/
def flagNumber : EventFlag → Nat
  | .verdict => 0
  | .grantChanged => 1
  | .stationLive => 2
  | .stationLost => 3
  | .diverged => 4
  | .transferDone => 5
  | .transferFailed => 6
  | .tripChanged => 7
  | .dutyChanged => 8
  | .inputLost => 9
  | .addressClash => 10
  | .stackDrop => 11
  | .notTaken => 12
  | .sampleInvalid => 13
  | .auxChange => 14
  | .joinChange => 15

/-- The flags with one raised: set whatever its mask; a flag already set stays set (R161). -/
def withFlag (flags : Word16) (e : EventFlag) : Word16 := flags ||| bitWord (flagNumber e)

/-- The flags with one raised if a condition holds. -/
def withFlagIf (c : Bool) (e : EventFlag) (flags : Word16) : Word16 := if c then withFlag flags e else flags

/-- The flags after an ACK of a mask (R161). -/
def acknowledged (flags mask : Word16) : Word16 := flags &&& ~~~mask

/-- ATTU is asserted while a set flag has its mask bit clear and its level URGENT (R161). -/
def attentionUrgent (flags masks levels : Word16) : Bool := (flags &&& ~~~masks &&& levels) != 0

/-- ATTR is asserted on the same terms for ROUTINE flags (R161). -/
def attentionRoutine (flags masks levels : Word16) : Bool := (flags &&& ~~~masks &&& ~~~levels) != 0

/-- A link counter raised by 1, saturating at 65535 (R35). -/
def countUp (c : Word16) : Word16 := if c = 0xFFFF then c else c + 1

/-- A lost count raised by 1, saturating at 15 (R144). -/
def lostUp (limit n : Nat) : Nat := if n < limit then n + 1 else n

end Sys2Proof.Machine
end

