-- ==== Sys2Proof/Machine/State.lean ====
section
/-! DEFINITION. The state of the node, block by block (00_scope.md, BLOCK DIAGRAM), and the state at the end of
hardware reset. Outputs that follow from this state at once (SHUT, ATTU, ATTR) are computed in Machine/Ops.lean
and Machine/Overrides.lean. -/

namespace Sys2Proof.Machine

/-- The spec names nothing that stops the part: every command answers a next state, so no reason to fault
exists. Nothing raises a fault; that is safe, for the spec gives none. -/
inductive Fault
deriving DecidableEq, Repr

/-- Why a command is refused. -/
inductive Refusal
  /-- Raised by exec's arm of a command that has no meaning yet, and by nothing else; safe. No arm raises it:
  every command of the table has its meaning. -/
  | notModelled (mnemonic : String)
deriving DecidableEq, Repr

/-- The Link Controller (R17, R22, R23, R28, R35). While `onLine` is some frame, that frame is the head of
the queue (R25). -/
structure LinkController where
  queue : List QueuedFrame
  onLine : Option LineFrame
  lastSender : Address
  muted : Bool
  counters : LinkCounters
  line : LineState
deriving DecidableEq, Repr

/-- The Allocation Engine (00_scope.md, BLOCK DIAGRAM). `ownBurn` is the node's own placed burn as the last
close or load computed it, the "result before" of R86. -/
structure AllocationEngine where
  join : JoinState
  round : Word16
  roundTimer : Timer
  silenceTimer : Timer
  journal : List Record
  committed : Committed
  digest : Word16
  ownBurn : Nat
  cap : Option Word16
  ownLive : Bool
  announced : Bool
  plantTrip : Bool
  demand : PendingDemand
  lastTier : Nat
  hold : List HeldFrame
  latched : Channels
deriving DecidableEq, Repr

/-- The Table Transfer Unit (R107 to R113). -/
structure TransferUnit where
  phase : TransferPhase
  attempts : Nat
  buffer : List Byte
  answerTimer : Timer
  stallTimer : Timer
deriving DecidableEq, Repr

/-- The Override Stack above BASE, the topmost entry first (R130). -/
structure OverrideStack where
  stack : List OverrideEntry
deriving DecidableEq, Repr

/-- The Valve Driver (R139 to R141, R97). Periods are in milliseconds; `periodStart` is the moment the period
in progress began. -/
structure ValveDriver where
  baseSetpoint : Word16
  target : Duty
  applied : Duty
  lead : Bool
  period : Nat
  nextPeriod : Nat
  periodStart : Nat
deriving DecidableEq, Repr

/-- The Event Input Unit (R143 to R149). `wait` is the filter wait of IN3. -/
structure EventInputUnit where
  esd : EventInput
  trip : EventInput
  permit : EventInput
  aux : EventInput
  wait : Timer
  flame : Bool
  tripOutstanding : Bool
deriving DecidableEq, Repr

/-- The Sampler (R151, R152). The history has the oldest scan first; `scanning` is the start of a scan in
progress. -/
structure Sampler where
  history : List ScanCodes
  smoothed : Channels
  scanning : Option Nat
  nextScan : Nat
  span0 : Word16
  span2 : Word16
  span3 : Word16
deriving DecidableEq, Repr

/-- The Panel Port (R118, R155 to R162). -/
structure PanelPort where
  image : List Word16
  written : List Bool
  windowOpen : Bool
  windowIndex : Address
  part : Fin 4
  flags : Word16
  masks : Word16
  levels : Word16
  holding : Option Word32
  reply : Option Word32
  outcome : Option Word32
  sequenceMark : Bool
  overrunMark : Bool
  exchange : Exchange
deriving DecidableEq, Repr

/-- The node: its strapped identity (R117), its eight blocks, the model's clock in microseconds since the end
of hardware reset (log 2), the count of free values used (log 10), and the commands that wait, first in first
out. -/
structure State where
  address : Address
  role : Role
  lc : LinkController
  ae : AllocationEngine
  ttu : TransferUnit
  ovs : OverrideStack
  vd : ValveDriver
  eiu : EventInputUnit
  smp : Sampler
  pp : PanelPort
  now : Nat
  freeCount : Nat
  pending : List Instr
deriving DecidableEq, Repr

/-! The blocks at the end of hardware reset. -/

/-- All six counters at 0 (R35). -/
def clearedCounters : LinkCounters :=
  { framesGood := 0, crcErrors := 0, collisions := 0, discards := 0, duplicateMarks := 0, roundSlips := 0 }

/-- Every channel INVALID (R154). -/
def invalidChannels : Channels := { ch0 := none, ch1 := none, ch2 := none, ch3 := none }

/-- The pending demand IDLE with outcome NONE (R68). -/
def idleDemand : PendingDemand := { stage := .idle, outcome := .verdict .none }

/-- START-HOLD as hardware reset and RESTART place it, round pushed 0 (R142). -/
def startHoldEntry : OverrideEntry :=
  { kind := .startHold, value := 0, captured := 0, round := 0, void := false, expiries := 0 }

/-- R34, R17: the quiet measurement begins at the end of reset. -/
def resetLink : LinkController :=
  { queue := [], onLine := none, lastSender := 15, muted := false, counters := clearedCounters,
    line := .quiet 0 none }

/-- R36, R37, R48, R68, R87, R98, R116, R117. -/
def resetEngine : AllocationEngine :=
  { join := .profile, round := 0, roundTimer := .stopped, silenceTimer := .stopped, journal := [],
    committed := clearedState, digest := 0, ownBurn := 0, cap := none, ownLive := false, announced := false,
    plantTrip := false, demand := idleDemand, lastTier := 0, hold := [], latched := invalidChannels }

/-- R116. -/
def resetTransfer : TransferUnit :=
  { phase := .idle, attempts := 0, buffer := [], answerTimer := .stopped, stallTimer := .stopped }

/-- R142: BASE and START-HOLD. -/
def resetStack : OverrideStack := { stack := [startHoldEntry] }

/-- R142: target, base setpoint and applied duty 0, LEAD released, period 20 ms from the end of reset. -/
def resetValve : ValveDriver :=
  { baseSetpoint := 0, target := 0, applied := 0, lead := false, period := 20, nextPeriod := 20, periodStart := 0 }

/-- An input that takes the pin level as its reference, with its latch clear and a lost count kept (R143,
R150). -/
def restedInput (pin : Bool) (lost : Nat) : EventInput := { pin, reference := pin, latch := false, lost }

/-- IN3 at a reset (R149, R150): at a flare the counted level is not proven, elsewhere it is the pin level. -/
def restedAux (role : Role) (pin : Bool) (lost : Nat) : EventInput :=
  { pin, reference := if role = .flare then false else pin, latch := false, lost }

/-- The filter wait of IN3 at a reset (R149): at a flare with the pin high the 2000 ms begin then. -/
def restedWait (role : Role) (pin : Bool) (now : Nat) : Timer :=
  if role = .flare ∧ pin = true then .running now else .stopped

/-- R150. -/
def resetInputs (role : Role) (pins : InputLevels) : EventInputUnit :=
  { esd := restedInput pins.esd 0, trip := restedInput pins.trip 0, permit := restedInput pins.permit 0,
    aux := restedAux role pins.aux 0, wait := restedWait role pins.aux 0, flame := false,
    tripOutstanding := false }

/-- R154, R151: the first scan starts at the end of reset; the spans are the role defaults (R120). -/
def resetSampler : Sampler :=
  { history := [], smoothed := invalidChannels, scanning := none, nextScan := 0, span0 := 1000, span2 := 100,
    span3 := 1000 }

/-- R162, R118. An exchange in progress at hardware reset is void, and its word is lost. -/
def resetPort (role : Role) (exchange : Exchange) : PanelPort :=
  { image := defaultProfile role, written := List.replicate 20 false, windowOpen := true, windowIndex := 0,
    part := 0, flags := 0, masks := 0xFFFF, levels := defaultLevels, holding := none, reply := none,
    outcome := none, sequenceMark := false, overrunMark := false, exchange }

/-- The node at the end of a hardware reset that read these straps and pins (R117). The queue of commands is
the sender's and is kept. -/
def State.atReset (address : Address) (role : Role) (pins : InputLevels) (exchange : Exchange)
    (freeCount : Nat) (pending : List Instr) : State :=
  { address, role, lc := resetLink, ae := resetEngine, ttu := resetTransfer, ovs := resetStack,
    vd := resetValve, eiu := resetInputs role pins, smp := resetSampler, pp := resetPort role exchange,
    now := 0, freeCount, pending }

/-- The machine right after power-on with every strap and every event input low: station 0, PRODUCER
(DESIGN CHOICE, log 1). -/
def State.reset : State :=
  State.atReset 0 .producer { esd := false, trip := false, permit := false, aux := false } .none 0 []

end Sys2Proof.Machine
end

