-- ==== Sys2Proof/Machine/Ops.lean ====
section
/-! DEFINITION. The named operations on the node: a block replaced, the clock moved on, timers started, an event
raised, the profile read, and the outputs that follow from flags, masks and levels. Laws/State.lean has the
lemmas of the block updates. -/

namespace Sys2Proof.Machine

/-! One block replaced. -/

def State.setLc (s : State) (x : LinkController) : State := { s with lc := x }
def State.setAe (s : State) (x : AllocationEngine) : State := { s with ae := x }
def State.setTtu (s : State) (x : TransferUnit) : State := { s with ttu := x }
def State.setOvs (s : State) (x : OverrideStack) : State := { s with ovs := x }
def State.setVd (s : State) (x : ValveDriver) : State := { s with vd := x }
def State.setEiu (s : State) (x : EventInputUnit) : State := { s with eiu := x }
def State.setSmp (s : State) (x : Sampler) : State := { s with smp := x }
def State.setPp (s : State) (x : PanelPort) : State := { s with pp := x }
def State.setNow (s : State) (x : Nat) : State := { s with now := x }
def State.setFreeCount (s : State) (x : Nat) : State := { s with freeCount := x }
def State.setPending (s : State) (x : List Instr) : State := { s with pending := x }

/-! The clock (log 2). -/

/-- A timed command happens at its due moment: the clock moves on to it unless it is past it already. -/
def advanceTo (due : Nat) (s : State) : State := s.setNow (max s.now due)

/-- The moment a timer that runs is due. -/
def timerDue (t : Timer) (duration : Nat) : Option Nat :=
  match t with
  | .stopped => none
  | .held => none
  | .running since => some (since + duration)

/-- Whether a frame has started on the line and not yet ended (R17, R123). -/
def lineBusy (l : LineState) : Bool :=
  match l with
  | .quiet _ _ => false
  | .busy _ _ _ => true

/-- The round timer restarted (R37). -/
def restartRoundTimer (s : State) : State := s.setAe { s.ae with roundTimer := .running s.now }

/-- The silence timer restarted; a frame on the line holds it (R123). -/
def restartSilenceTimer (s : State) : State :=
  s.setAe { s.ae with silenceTimer := if lineBusy s.lc.line then .held else .running s.now }

/-- The silence timer runs in LISTENING alone (R123): a frame's end restarts it there. -/
def silenceAtFrameEnd (s : State) : State :=
  if s.ae.join = .listening then restartSilenceTimer s else s

/-- The start of a frame or character holds the silence timer of a LISTENING node (R123). -/
def silenceAtFrameStart (s : State) : State :=
  if s.ae.join = .listening then s.setAe { s.ae with silenceTimer := .held } else s

/-! Events (R161). -/

/-- A block raises an event flag by notice to the port. -/
def raiseEvent (e : EventFlag) (s : State) : State := s.setPp { s.pp with flags := withFlag s.pp.flags e }

/-- An event raised where a condition holds. -/
def raiseIf (c : Bool) (e : EventFlag) (s : State) : State := if c then raiseEvent e s else s

/-- ATTU asserted, that is driven low (R161). -/
def State.attu (s : State) : Bool := attentionUrgent s.pp.flags s.pp.masks s.pp.levels

/-- ATTR asserted, that is driven low (R161). -/
def State.attr (s : State) : Bool := attentionRoutine s.pp.flags s.pp.masks s.pp.levels

/-! The profile (R120, R168). -/

/-- A word of a profile image. -/
def imageWord (image : List Word16) (i : Nat) : Word16 := image.getD i 0

/-- A word of the node's profile. -/
def State.profileWord (s : State) (i : Nat) : Word16 := imageWord s.pp.image i

/-- Word 0, bit 0. -/
def State.autoRelease (s : State) : Bool := (s.profileWord 0).getLsbD 0

/-- Word 0, bit 1. -/
def State.autoResume (s : State) : Bool := (s.profileWord 0).getLsbD 1

/-- Word 0, bit 2. -/
def State.dutyAllowed (s : State) : Bool := (s.profileWord 0).getLsbD 2

/-- The valve capacity, word 2. -/
def State.valveCapacity (s : State) : Word16 := s.profileWord 2

/-- The tier draw list of an image: words 6 to 10, one draw for each present tier (R64, R119). -/
def imageDraws (image : List Word16) : List Word16 :=
  ([6, 7, 8, 9, 10].map (imageWord image)).filter fun d => decide (d ≠ 0)

/-- The node's own Station Table entry. -/
def State.ownEntry (s : State) : Entry := s.ae.committed.table.getD s.address.val clearedEntry

/-- The next round number: 65535 is followed by 1 (R36). -/
def nextRound (r : Word16) : Word16 := if r = 0xFFFF then 1 else r + 1

end Sys2Proof.Machine
end

