-- ==== Sys2Proof/Machine/Overrides.lean ====
section
/-! DEFINITION. The Override Stack and its decision to the Valve Driver (R130 to R139, R141). The stack's list has
the topmost entry first. -/

namespace Sys2Proof.Machine

/-! Entries. -/

/-- PANEL origin: the last four kinds (R130). -/
def panelKind : OverrideKind → Bool
  | .limit | .hold | .fixed | .isolate => true
  | .startHold | .esdIsolate | .tripIsolate | .plantTripIsolate | .rejoinHold => false

/-- The isolating class: fixed by the kind, except for REJOIN-HOLD, which converts at its second expiry
(R130, R136). -/
def isolatingEntry (e : OverrideEntry) : Bool :=
  match e.kind with
  | .startHold | .esdIsolate | .tripIsolate | .plantTripIsolate | .isolate => true
  | .rejoinHold => decide (2 ≤ e.expiries)
  | .limit | .hold | .fixed => false

/-- An entry that isolates: isolating class and not VOID (R131). -/
def isolates (e : OverrideEntry) : Bool := isolatingEntry e && !e.void

/-- Isolating present, at any depth (R131). -/
def isolatingPresent (stack : List OverrideEntry) : Bool := stack.any isolates

/-- The governing entry: the topmost non-VOID one; none is BASE (R131). -/
def governingEntry (stack : List OverrideEntry) : Option OverrideEntry := stack.find? fun e => !e.void

/-- The governing kind (R131): of the uppermost isolating entry if isolating is present, else of the governing
entry. -/
def governingKind (stack : List OverrideEntry) : GoverningKind :=
  match stack.find? isolates with
  | some e => .override e.kind
  | none =>
    match governingEntry stack with
    | some e => .override e.kind
    | none => .base

/-- The isolating level the Valve Driver reads (R131). -/
def State.isolating (s : State) : Bool := isolatingPresent s.ovs.stack

/-- SHUT energized: the complement of the isolating level, at once (R141). -/
def State.shut (s : State) : Bool := !s.isolating

/-! The target duty (R139). -/

/-- floor(setpoint × 1023 / valve capacity), clipped to 1023. -/
def dutyOfSetpoint (setpoint capacity : Word16) : Duty :=
  BitVec.ofNat 10 (min 1023 (setpoint.toNat * 1023 / capacity.toNat))

/-- The target the governing entry gives; an isolating entry that governs sets no duty (R131, log 11). -/
def targetOf (governing : Option OverrideEntry) (setpoint capacity : Word16) : Option Duty :=
  match governing with
  | none => some (dutyOfSetpoint setpoint capacity)
  | some e =>
    if isolatingEntry e then none
    else
      match e.kind with
      | .limit => some (dutyOfSetpoint (if setpoint.toNat ≤ e.value.toNat then setpoint else e.value) capacity)
      | .hold | .rejoinHold => some e.captured
      | .fixed => some (BitVec.ofNat 10 (min 1023 e.value.toNat))
      | .startHold | .esdIsolate | .tripIsolate | .plantTripIsolate | .isolate => none

/-- The Valve Driver recomputes its target (R139). -/
def retarget (s : State) : State :=
  s.setVd
    { s.vd with
      target := (targetOf (governingEntry s.ovs.stack) s.vd.baseSetpoint s.valveCapacity).getD s.vd.target }

/-- The stack changed, and its decision passed to the Valve Driver (R131, R138). -/
def withStack (s : State) (stack : List OverrideEntry) : State := retarget (s.setOvs { stack })

/-- The AE hands the Valve Driver a base setpoint (R139). -/
def handSetpoint (v : Word16) (s : State) : State := retarget (s.setVd { s.vd with baseSetpoint := v })

/-- The AE gives the lead duty as held or released; LEAD follows at once (R97). -/
def giveLead (held : Bool) (s : State) : State := s.setVd { s.vd with lead := held }

/-! Placement. -/

/-- The captured duty (R137): 0 while isolating is present, else the duty of the period in progress. -/
def capturedDuty (kind : OverrideKind) (s : State) : Duty :=
  match kind with
  | .hold | .rejoinHold => if s.isolating then 0 else s.vd.applied
  | .startHold | .esdIsolate | .tripIsolate | .plantTripIsolate | .limit | .fixed | .isolate => 0

/-- A new entry of a kind as it is placed now (R130, R132, R133). -/
def newOverride (kind : OverrideKind) (value : Word16) (s : State) : OverrideEntry :=
  { kind, value, captured := capturedDuty kind s, round := s.ae.round, void := false, expiries := 0 }

/-- The lowest entry that a test admits removed; the entries above it close up. -/
def removeLowest (p : OverrideEntry → Bool) (stack : List OverrideEntry) : List OverrideEntry :=
  (stack.reverse.eraseP p).reverse

/-- VOID entries that stand on top removed, one after another (R135). -/
def dropVoidTop (stack : List OverrideEntry) : List OverrideEntry := stack.dropWhile fun e => e.void

/-- Room made for one entry (R134): the stack with room and whether STACK-DROP is raised; none where all five
are device entries. -/
def makeRoom (stack : List OverrideEntry) : Option (List OverrideEntry × Bool) :=
  if stack.length < stackCapacity then some (stack, false)
  else if stack.any (·.void) then some (removeLowest (·.void) stack, false)
  else if stack.any (fun e => panelKind e.kind) then
    some (dropVoidTop (removeLowest (fun e => panelKind e.kind) stack), true)
  else none

/-- A push of a kind with a value: room is made first and the new entry then placed on top. It answers whether
the entry was placed, and the node after it; a refused push leaves the stack and raises STACK-DROP (R134). -/
def placeOverride (kind : OverrideKind) (value : Word16) (s : State) : Bool × State :=
  match makeRoom s.ovs.stack with
  | some (stack, dropped) =>
    let e := newOverride kind value (s.setOvs { stack })
    (true, raiseIf dropped .stackDrop (withStack s (e :: stack)))
  | none => (false, raiseEvent .stackDrop s)

/-- A device push (R132). A VOID entry of the kind is removed first; a non-VOID one leaves nothing to do. -/
def devicePush (kind : OverrideKind) (s : State) : State :=
  if s.ovs.stack.any (fun e => decide (e.kind = kind) && !e.void) then s
  else if s.ovs.stack.any (fun e => decide (e.kind = kind)) then
    withStack s (newOverride kind 0 s :: s.ovs.stack.filter fun e => decide (e.kind ≠ kind))
  else (placeOverride kind 0 s).2

/-! Withdrawal (R135). -/

/-- The topmost non-VOID entry that a test admits marked VOID; the top is then cleared of VOID entries. An
entry on top is so removed, with the VOID entries under it; an entry below stays, VOID. -/
def withdrawEntry (p : OverrideEntry → Bool) : List OverrideEntry → List OverrideEntry
  | [] => []
  | e :: rest => if p e && !e.void then { e with void := true } :: rest else e :: withdrawEntry p rest

/-- The stack after a withdrawal. -/
def withdrawn (p : OverrideEntry → Bool) (stack : List OverrideEntry) : List OverrideEntry :=
  dropVoidTop (withdrawEntry p stack)

/-- A device withdraws the non-VOID entry of its own kind; without one, nothing changes. -/
def deviceWithdraw (kind : OverrideKind) (s : State) : State :=
  if s.ovs.stack.any (fun e => decide (e.kind = kind) && !e.void) then
    withStack s (withdrawn (fun e => decide (e.kind = kind)) s.ovs.stack)
  else s

/-- The newest non-VOID PANEL entry, which a POP withdraws. -/
def newestPanel (stack : List OverrideEntry) : Option OverrideEntry :=
  stack.find? fun e => panelKind e.kind && !e.void

/-! REJOIN-HOLD's expiries (R136). -/

/-- An expiry notice counted by a non-VOID REJOIN-HOLD, up to 2. -/
def countExpiry (e : OverrideEntry) : OverrideEntry :=
  if e.kind = .rejoinHold ∧ e.void = false then { e with expiries := min 2 (e.expiries + 1) } else e

/-- The round timer's expiry notice to the Override Stack. -/
def expiryNotice (s : State) : State := withStack s (s.ovs.stack.map countExpiry)

end Sys2Proof.Machine
end

