-- ==== Sys2Proof/Machine/Notices.lean ====
section
/-! DEFINITION. What the blocks do when a frame of theirs is lost or a transfer ends: the notices of the Link
Controller to the originators (R28, R31, R66, R109, R113, R122, R146). -/

namespace Sys2Proof.Machine

/-! Frames by kind. -/

/-- An ASK frame. -/
def isAsk : FrameBody → Bool
  | .ask _ _ => true
  | .status _ | .mark | .claim _ | .yield _ | .duty _ | .announce _ | .trip | .clear _
  | .blockHeader _ _ _ _ _ _ | .blockData _ _ _ _ => false

/-- A BLOCK frame. -/
def isBlock : FrameBody → Bool
  | .blockHeader _ _ _ _ _ _ => true
  | .blockData _ _ _ _ => true
  | .status _ | .mark | .claim _ | .yield _ | .duty _ | .announce _ | .trip | .clear _ | .ask _ _ => false

/-- The kinds whose loss raises NOT-TAKEN: CLAIM, YIELD, DUTY (R28, R31). -/
def raisesNotTaken : FrameBody → Bool
  | .claim _ => true
  | .yield _ => true
  | .duty _ => true
  | .status _ | .mark | .announce _ | .trip | .clear _ | .ask _ _ | .blockHeader _ _ _ _ _ _
  | .blockData _ _ _ _ => false

/-! The transmit queue's frames. -/

/-- The frames that wait: all but a frame in progress on the line (R25, R29). -/
def waitingFrames (lc : LinkController) : List QueuedFrame := if lc.onLine.isSome then lc.queue.tail else lc.queue

/-- The frame in progress, which keeps its place in front (R25). -/
def frontFrames (lc : LinkController) : List QueuedFrame := if lc.onLine.isSome then lc.queue.take 1 else []

/-- The queue with its waiting frames replaced. -/
def withWaiting (lc : LinkController) (w : List QueuedFrame) : LinkController :=
  { lc with queue := frontFrames lc ++ w }

/-- The waiting frames that a test admits withdrawn, without a discard count (R32). -/
def withdrawWaiting (p : QueuedFrame → Bool) (s : State) : State :=
  s.setLc (withWaiting s.lc ((waitingFrames s.lc).filter fun q => !p q))

/-- The frames of some kinds followed by their originator no longer. -/
def untrack (p : FrameBody → Bool) (s : State) : State :=
  s.setLc
    { s.lc with queue := s.lc.queue.map fun q => if p q.body then { q with tracked := false } else q }

/-! The TTU's endings. -/

/-- The TTU IDLE with its buffer clear and its timers stopped (R113, R116). -/
def idleTransfer (attempts : Nat) : TransferUnit :=
  { phase := .idle, attempts, buffer := [], answerTimer := .stopped, stallTimer := .stopped }

/-- An attempt in progress: ASKED or LOADING. -/
def attempting : TransferPhase → Bool
  | .asked _ _ => true
  | .loading _ _ _ _ _ _ => true
  | .idle | .serving _ _ _ _ _ _ => false

/-- ASKED, the one state in which the loss of the ASK fails the attempt (R107). -/
def isAsked : TransferPhase → Bool
  | .asked _ _ => true
  | .idle | .loading _ _ _ _ _ _ | .serving _ _ _ _ _ _ => false

/-- SERVING. -/
def isServing : TransferPhase → Bool
  | .serving _ _ _ _ _ _ => true
  | .idle | .asked _ _ | .loading _ _ _ _ _ _ => false

/-- An attempt fails (R113). Its ASK, if it still waits, stays and is followed no longer. REJOIN after the third
failure is `settle` (log 14). -/
def attemptFail (s : State) : State :=
  raiseEvent .transferFailed (untrack isAsk (s.setTtu (idleTransfer (s.ttu.attempts + 1))))

/-- An attempt ends without failure and the attempt count goes to 0 (R103, R114, R123). -/
def attemptEnd (s : State) : State := untrack isAsk (s.setTtu (idleTransfer 0))

/-- SERVING ends: the block the server follows is withdrawn if it waits, and followed no longer if it is in progress
(R109; log 21). A refusal BLOCK 0 that waits is no block of the serving and stays (log 30). -/
def servingEnd (s : State) : State :=
  let s := untrack isBlock (withdrawWaiting (fun q => q.tracked && isBlock q.body) s)
  s.setTtu { s.ttu with phase := .idle }

/-! The AE's records of its own frames. -/

/-- A pending demand that is QUEUED ends NOT-TAKEN (R66). -/
def demandNotTaken (s : State) : State :=
  s.setAe
    { s.ae with
      demand := if s.ae.demand.stage = .queued then { stage := .idle, outcome := .notTaken } else s.ae.demand }

/-- The announce mark cleared (R122). -/
def announceLost (s : State) : State := s.setAe { s.ae with announced := false }

/-- A TRIP or CLEAR enters the AE's hold behind those already there (R47). -/
def holdFrame (h : HeldFrame) (s : State) : State := s.setAe { s.ae with hold := s.ae.hold ++ [h] }

/-- The originator told that a frame was discarded at the collision limit or displaced (R28, R31). The CLAIM of
the pending demand ends it NOT-TAKEN (R66); the ASK that an ASKED TTU follows fails the attempt (R107); the BLOCK the
server follows ends SERVING (R109); an ANNOUNCE clears the mark (R122); a TRIP or CLEAR of the EIU is held (R146,
R148), one the AE re-offered is not (log 13). -/
def discardNotice (q : QueuedFrame) (s : State) : State :=
  match q.body with
  | .claim _ => if q.tracked then demandNotTaken s else s
  | .announce _ => announceLost s
  | .ask _ _ => if q.tracked && isAsked s.ttu.phase then attemptFail s else s
  | .blockHeader _ _ _ _ _ _ => if q.tracked then servingEnd s else s
  | .blockData _ _ _ _ => if q.tracked then servingEnd s else s
  | .trip => if q.originator = .eiu then holdFrame .trip s else s
  | .clear target => if q.originator = .eiu then holdFrame (.clear target) s else s
  | .status _ => s
  | .mark => s
  | .yield _ => s
  | .duty _ => s

end Sys2Proof.Machine
end

