-- ==== Sys2Proof/Machine/TransmitQueue.lean ====
section
/-! DEFINITION. The Link Controller's operations: admission and order of the transmit queue (R29 to R34), the
access moment (R24), the counters (R35). -/

namespace Sys2Proof.Machine

/-! Queue classes (R18, R29). -/

/-- The queue class of a frame. -/
inductive FrameClass
  | head | mark | status | ordinary
deriving DecidableEq, Repr

/-- The class of each kind (R18). -/
def frameClass : FrameBody → FrameClass
  | .trip => .head
  | .clear _ => .head
  | .mark => .mark
  | .status _ => .status
  | .claim _ | .yield _ | .duty _ | .announce _ | .ask _ _ | .blockHeader _ _ _ _ _ _
  | .blockData _ _ _ _ => .ordinary

/-- Whether a queued frame is of a class. -/
def ofClass (c : FrameClass) (q : QueuedFrame) : Bool := decide (frameClass q.body = c)

/-- The admission table (R33). -/
def admits (join : JoinState) (muted : Bool) (body : FrameBody) : Bool :=
  !muted &&
    match join with
    | .profile => false
    | .muted => false
    | .joined => true
    | .diverged => true
    | .listening =>
      match body with
      | .announce _ => true
      | .ask _ _ => true
      | .status _ | .mark | .claim _ | .yield _ | .duty _ | .trip | .clear _ | .blockHeader _ _ _ _ _ _
      | .blockData _ _ _ _ => false

/-- An arriving frame placed among the waiting frames (R29). -/
def placeFrame (q : QueuedFrame) (w : List QueuedFrame) : List QueuedFrame :=
  match frameClass q.body with
  | .head | .mark => w.filter (ofClass .head) ++ q :: w.filter (fun x => !ofClass .head x)
  | .status | .ordinary => w ++ [q]

/-- The waiting frames without the newest ordinary one, and that frame, if there is one (R31). -/
def displaceNewest : List QueuedFrame → Option (QueuedFrame × List QueuedFrame)
  | [] => none
  | q :: rest =>
    match displaceNewest rest with
    | some (x, rest') => some (x, q :: rest')
    | none => if ofClass .ordinary q then some (q, rest) else none

/-! Counters (R35). -/

/-- One more frame good. -/
def countGood (s : State) : State :=
  s.setLc { s.lc with counters := { s.lc.counters with framesGood := countUp s.lc.counters.framesGood } }

/-- One more CRC error. -/
def countFailed (s : State) : State :=
  s.setLc { s.lc with counters := { s.lc.counters with crcErrors := countUp s.lc.counters.crcErrors } }

/-- One more collision. -/
def countCollision (s : State) : State :=
  s.setLc { s.lc with counters := { s.lc.counters with collisions := countUp s.lc.counters.collisions } }

/-- One more transmit discard. -/
def countDiscard (s : State) : State :=
  s.setLc { s.lc with counters := { s.lc.counters with discards := countUp s.lc.counters.discards } }

/-- One more duplicate mark. -/
def countDuplicate (s : State) : State :=
  s.setLc { s.lc with counters := { s.lc.counters with duplicateMarks := countUp s.lc.counters.duplicateMarks } }

/-- One more round slip. -/
def countSlip (s : State) : State :=
  s.setLc { s.lc with counters := { s.lc.counters with roundSlips := countUp s.lc.counters.roundSlips } }

/-- The counter of a NOP selector (R35). -/
def counterOf (c : LinkCounters) : Nat → Option Word16
  | 0 => some c.framesGood
  | 1 => some c.crcErrors
  | 2 => some c.collisions
  | 3 => some c.discards
  | 4 => some c.duplicateMarks
  | 5 => some c.roundSlips
  | _ => none

/-! Offering a frame. -/

/-- The waiting frames replaced. -/
def setWaiting (w : List QueuedFrame) (s : State) : State := s.setLc (withWaiting s.lc w)

/-- A frame refused at a full queue (R31). -/
def refuseFull (q : QueuedFrame) (s : State) : State := raiseIf (raisesNotTaken q.body) .notTaken (countDiscard s)

/-- A waiting frame displaced from a full queue (R31). -/
def displaceFrame (x : QueuedFrame) (rest : List QueuedFrame) (s : State) : State :=
  discardNotice x (raiseEvent .notTaken (countDiscard (setWaiting rest s)))

/-- A frame that needs room is placed, displaces the newest ordinary frame, or is refused (R29, R31). -/
def offerWithRoom (q : QueuedFrame) (s : State) : Bool × State :=
  if s.lc.queue.length < queueCapacity then (true, setWaiting (placeFrame q (waitingFrames s.lc)) s)
  else if frameClass q.body = .ordinary then (false, refuseFull q s)
  else
    match displaceNewest (waitingFrames s.lc) with
    | none => (false, refuseFull q s)
    | some (x, rest) =>
      let s := displaceFrame x rest s
      (true, setWaiting (placeFrame q (waitingFrames s.lc)) s)

/-- A frame offered to the LC: whether it was admitted, and the node after it (R29 to R33). A MARK merges with one
in the queue, on the line or waiting (log 28); a STATUS replaces one that waits (R30). -/
def offerFrame (q : QueuedFrame) (s : State) : Bool × State :=
  if admits s.ae.join s.lc.muted q.body = false then (false, s)
  else
    match frameClass q.body with
    | .mark => if s.lc.queue.any (ofClass .mark) then (true, s) else offerWithRoom q s
    | .status =>
      if (waitingFrames s.lc).any (ofClass .status) then
        (true, setWaiting (placeFrame q ((waitingFrames s.lc).filter fun x => !ofClass .status x)) s)
      else offerWithRoom q s
    | .head | .ordinary => offerWithRoom q s

/-- A frame as it is admitted: its collision count is 0 (R28). -/
def newFrame (body : FrameBody) (originator : Originator) : QueuedFrame :=
  { body, originator, tracked := false, collisions := 0 }

/-- A frame of the AE that nothing follows. -/
def offerPlain (body : FrameBody) (s : State) : State := (offerFrame (newFrame body .ae) s).2

/-- The waiting MARK withdrawn at a close (R41). -/
def withdrawMark (s : State) : State := withdrawWaiting (ofClass .mark) s

/-- The queue emptied and a frame in progress cut off (R34). Its characters already sent keep the line busy. -/
def emptyQueue (s : State) : State := s.setLc { s.lc with queue := [], onLine := none }

/-! Access (R24). -/

/-- The last-sender view from which the rank is computed: L as it stands, or as it stood at three slots of quiet. -/
def rankView (l : LineState) (lastSender : Address) : Address :=
  match l with
  | .quiet _ (some a) => a
  | .quiet _ none => lastSender
  | .busy _ _ _ => lastSender

/-- The line as a change of L finds it: a view that three slots of quiet have fixed is kept for the rank. -/
def fixView (l : LineState) (lastSender : Address) (now : Nat) : LineState :=
  match l with
  | .quiet since none => if since + accessSlot * 3 ≤ now then .quiet since (some lastSender) else l
  | .quiet _ (some _) => l
  | .busy _ _ _ => l

/-- The rank r = (own address − L − 1) mod 16. -/
def rankOf (own lastSender : Address) : Nat := (own.val + 31 - lastSender.val) % 16

/-- Whether a quiet of so many slots is a start moment: 3 + r + 16k. -/
def startMoment (own lastSender : Address) (slots : Nat) : Bool :=
  decide (3 + rankOf own lastSender ≤ slots ∧ (slots - 3) % 16 = rankOf own lastSender)

/-- Whether the moment is the first that has not passed; one that is now may be let pass (R24; log 23). -/
def firstMoment (own lastSender : Address) (since now slots : Nat) : Bool :=
  decide (now ≤ since + accessSlot * slots ∧
    (3 + rankOf own lastSender + 16 ≤ slots → since + accessSlot * (slots - 16) ≤ now))

/-- The header round of a frame as it starts (R19). -/
def filledRound (body : FrameBody) (openRound : Word16) : Word16 :=
  if openRound = 0 then 0 else if frameClass body = .mark then nextRound openRound else openRound

end Sys2Proof.Machine
end

