-- ==== Sys2Proof/Machine/OwnFrames.lean ====
section
/-! DEFINITION. The frames the AE builds of its own: STATUS (R8, R11, R12, R153), CLAIM (R64), TAKE (R96), the held
TRIP and CLEAR (R47). -/

namespace Sys2Proof.Machine

/-! STATUS. -/

/-- The high byte of a profile word that carries two figures (R168). -/
def highByte (w : Word16) : Word16 := (w.extractLsb' 8 8).setWidth 16

/-- The low byte of a profile word that carries two figures (R168). -/
def lowByte (w : Word16) : Word16 := (w.extractLsb' 0 8).setWidth 16

/-- A store's announced capacity: 0 while isolating is present (R8, R153). -/
def State.announcedCapacity (s : State) : Word16 := if s.isolating then 0 else s.profileWord 12

/-- A flare's announced burn capacity: 0 unless the flame flag is set and isolating is absent (R149, R153). -/
def State.announcedBurn (s : State) : Word16 := if s.eiu.flame && !s.isolating then s.profileWord 16 else 0

/-- The figures of the node's own STATUS, from the latched record and the profile (R8, R153). -/
def State.ownFigures (s : State) : List (Option Word16) :=
  match s.role with
  | .producer => [s.ae.latched.ch0, s.ae.latched.ch1]
  | .store =>
    [s.ae.latched.ch3, some s.announcedCapacity, some (highByte (s.profileWord 13)),
      some (lowByte (s.profileWord 13)), some (highByte (s.profileWord 14)), some (lowByte (s.profileWord 14)),
      some (s.profileWord 15)]
  | .consumer => [s.ae.latched.ch0]
  | .flare => [some s.announcedBurn, s.ae.latched.ch0]

/-- The node's own STATUS record (R153). -/
def State.ownStatus (s : State) : StatusBody :=
  { role := s.role, digest := s.ae.digest, governing := governingKind s.ovs.stack,
    flame := decide (s.role = .flare) && s.eiu.flame,
    dutyAllowed := decide (s.role = .flare) && s.dutyAllowed, figures := s.ownFigures }

/-- The Sampler's smoothed figures latched, and a STATUS built from them offered (R50, R153). -/
def latchAndReport (s : State) : State :=
  let s := s.setAe { s.ae with latched := s.smp.smoothed }
  offerPlain (.status s.ownStatus) s

/-! CLAIM. -/

/-- A CLAIM for a tier, from the profile (R64). -/
def State.claimFor (s : State) (tier : Nat) : FrameBody :=
  .claim { tier, minMethane := (s.profileWord 11).toNat, draws := imageDraws s.pp.image }

/-! TAKE. -/

/-- A record of the node's own TAKE. -/
def isOwnTake (own : Address) : Record → Bool
  | .duty a .take => decide (a = own)
  | .duty _ .offer | .duty _ .withdraw | .status _ _ | .claim _ _ _ | .yield _ _ | .announce _ _ | .trip _
  | .clear _ _ | .gap => false

/-- The node's own TAKE is outstanding: in the transmit queue, or in the open journal (R96; log 19). -/
def State.takeOutstanding (s : State) : Bool :=
  s.lc.queue.any (fun q => decide (q.body = .duty .take)) || s.ae.journal.any (isOwnTake s.address)

/-- JOINED or DIVERGED. -/
def inRounds : JoinState → Bool
  | .joined => true
  | .diverged => true
  | .profile | .listening | .muted => false

/-- The committed duty field names another station than the node. -/
def namesAnother (duty : Option Address) (own : Address) : Bool :=
  match duty with
  | none => false
  | some a => decide (a ≠ own)

/-- The conditions under which a flare answers an open offer (R96). -/
def State.mayTake (s : State) : Bool :=
  inRounds s.ae.join && decide (s.role = .flare) && s.dutyAllowed && eligible s.ownEntry &&
    namesAnother s.ae.committed.duty s.address && !s.takeOutstanding

/-- The automatic TAKE (R96). -/
def automaticTake (s : State) : State := if s.mayTake then offerPlain (.duty .take) s else s

/-! The hold. -/

/-- The frame of a held TRIP or CLEAR. -/
def heldBody : HeldFrame → FrameBody
  | .trip => .trip
  | .clear target => .clear target

/-- The held frames offered again in the order of the hold, each dropped from it as it is offered (R47). -/
def reofferHold (s : State) : State :=
  s.ae.hold.foldl (fun s h => offerPlain (heldBody h) s) (s.setAe { s.ae with hold := [] })

end Sys2Proof.Machine
end

