-- ==== Sys2Proof/Machine/Transfer.lean ====
section
/-! DEFINITION. The Table Transfer Unit: asking, serving, loading up to the checked snapshot (R106 to R112). -/

namespace Sys2Proof.Machine

/-! Asking (R107). -/

/-- An ASK offered to a serving station: admitted, the TTU is ASKED; refused, the attempt fails at once. -/
def offerAsk (server : Address) (s : State) : State :=
  let attempt := s.ttu.attempts + 1
  let r := offerFrame { body := .ask server attempt, originator := .ttu, tracked := true, collisions := 0 } s
  if r.1 then r.2.setTtu { r.2.ttu with phase := .asked server attempt } else attemptFail r.2

/-- The TTU asks where a server was chosen, it is IDLE, and the attempt count is below 3 (R107). -/
def askChosen (server : Option Address) (s : State) : State :=
  match server with
  | none => s
  | some a => if s.ttu.phase = .idle ∧ s.ttu.attempts < attemptLimit then offerAsk a s else s

/-- The ASK of the attempt in progress counted as sent: the answer timer starts (R107). -/
def askSent (s : State) : State :=
  match s.ttu.phase with
  | .asked _ _ => s.setTtu { s.ttu with answerTimer := .running s.now }
  | .idle | .loading _ _ _ _ _ _ | .serving _ _ _ _ _ _ => s

/-! Serving (R108, R109). -/

/-- The attempt number as a BLOCK carries it, in four bits (R163; log 17). -/
def blockAttempt (attempt : Nat) : Nat := attempt % 16

/-- The block count of a body: its length divided by 22 and rounded up (R108). -/
def blockCount (bodyLen : Nat) : Nat := (bodyLen + 21) / blockBytes

/-- The body bytes of data block k (R109). -/
def blockSlice (buffer : List Byte) (k : Nat) : List Byte := (buffer.drop (blockBytes * (k - 1))).take blockBytes

/-- The block the server offers next, by its index (R108, R109). -/
def serverBlock (asker : Address) (attempt : Nat) (round digest : Word16) (count index : Nat) (buffer : List Byte) :
    FrameBody :=
  if index = 0 then .blockHeader asker (blockAttempt attempt) .clear count round digest
  else .blockData asker (blockAttempt attempt) index (blockSlice buffer index)

/-- The serving TTU offers its block; a block refused at a full queue ends SERVING (R109). -/
def offerBlock (body : FrameBody) (s : State) : State :=
  let r := offerFrame { body, originator := .ttu, tracked := true, collisions := 0 } s
  if r.1 then r.2 else servingEnd r.2

/-- An ASK accepted: the committed state is copied and BLOCK 0 offered (R108). -/
def beginServing (asker : Address) (attempt : Nat) (s : State) : State :=
  let buffer := snapshotBody s.ae.committed
  let count := blockCount buffer.length
  offerBlock (serverBlock asker attempt s.ae.round s.ae.digest count 0 buffer)
    (s.setTtu
      { s.ttu with phase := .serving asker attempt s.ae.round s.ae.digest count 0, buffer })

/-- An ASK refused by one BLOCK 0, which nothing follows; one that the LC does not accept is dropped (R108). -/
def refuseAsk (asker : Address) (attempt : Nat) (status : BlockStatus) (s : State) : State :=
  (offerFrame (newFrame (.blockHeader asker (blockAttempt attempt) status 0 s.ae.round 0) .ttu) s).2

/-- An ASK delivered to the TTU (R108). -/
def askReceived (asker server : Address) (attempt : Nat) (s : State) : State :=
  if server ≠ s.address then s
  else if s.ae.join ≠ .joined then refuseAsk asker attempt .notEligible s
  else
    match s.ttu.phase with
    | .idle => beginServing asker attempt s
    | .serving served _ _ _ _ _ =>
      if served = asker then beginServing asker attempt (servingEnd s) else refuseAsk asker attempt .busy s
    | .asked _ _ | .loading _ _ _ _ _ _ => refuseAsk asker attempt .notEligible s

/-- The block the server follows counted as sent: the next one is offered, or SERVING ends after the last
(R109). -/
def blockSent (s : State) : State :=
  match s.ttu.phase with
  | .serving asker attempt round digest count block =>
    if block < count then
      offerBlock (serverBlock asker attempt round digest count (block + 1) s.ttu.buffer)
        (s.setTtu { s.ttu with phase := .serving asker attempt round digest count (block + 1) })
    else servingEnd s
  | .idle | .asked _ _ | .loading _ _ _ _ _ _ => s

/-! Loading (R110, R111). -/

/-- The attempt a BLOCK must name to be considered (R110). -/
def currentAttempt : TransferPhase → Option (Address × Nat)
  | .asked server attempt => some (server, blockAttempt attempt)
  | .loading server attempt _ _ _ _ => some (server, blockAttempt attempt)
  | .idle | .serving _ _ _ _ _ _ => none

/-- A BLOCK is considered when it is addressed to the node, comes from the serving station asked, and carries the
current attempt number (R110). -/
def State.considersBlock (s : State) (sender addressee : Address) (attempt : Nat) : Bool :=
  decide (addressee = s.address ∧ currentAttempt s.ttu.phase = some (sender, attempt))

/-- A considered BLOCK 0 (R110, R111). An ASK that still waits is followed no longer, since its loss fails an attempt in
ASKED alone (R107). -/
def headerReceived (status : BlockStatus) (count : Nat) (round digest : Word16) (s : State) : State :=
  match s.ttu.phase with
  | .asked server attempt =>
    if status = .clear ∧ round = s.ae.round ∧ 12 ≤ count ∧ count ≤ 23 then
      untrack isAsk
        (s.setTtu
          { s.ttu with
            phase := .loading server attempt round digest count 1
            buffer := []
            answerTimer := .stopped
            stallTimer := .running s.now })
    else attemptFail s
  | .loading _ _ _ _ _ _ => attemptFail s
  | .idle | .serving _ _ _ _ _ _ => s

/-- Whether a data block is taken: the expected index, the snapshot round in its header, the length of its place
(R111). -/
def blockFits (snapshotRound : Word16) (count expected index : Nat) (headerRound : Word16) (bytes : List Byte) :
    Bool :=
  decide (index = expected ∧ headerRound = snapshotRound ∧ 1 ≤ bytes.length ∧ bytes.length ≤ blockBytes ∧
    (index < count → bytes.length = blockBytes))

/-- The snapshot's check (R112). -/
def snapshotAccepted (body : List Byte) (digest : Word16) : Bool :=
  decide (bodyQueueCount body ≤ claimCapacity ∧ body.length = bodyLength (bodyQueueCount body) ∧
    crc16 body = digest)

end Sys2Proof.Machine
end

