-- ==== Sys2Proof/Machine/Setpoint.lean ====
section
/-! DEFINITION. What the AE hands on after a close or a load: the base setpoint and lead duty (R85, R97, R105),
the plant-trip entry (R76), the own-presence-LIVE notice (R14), the claimant's comparison (R67, R86). -/

namespace Sys2Proof.Machine

/-! The base setpoint. -/

/-- The draw of the granted tier of a station's own entry, 0 if it holds none (R85). -/
def grantedDrawOf (queue : List QueueEntry) (a : Address) : Word16 :=
  match queueEntryOf queue a with
  | none => 0
  | some q => BitVec.ofNat 16 (drawOf q q.granted)

/-- A station's granted tier, 0 if it holds no entry (R67). -/
def grantedTierOf (queue : List QueueEntry) (a : Address) : Nat :=
  match queueEntryOf queue a with
  | none => 0
  | some q => q.granted

/-- The computed base setpoint (R85). -/
def State.computedSetpoint (s : State) : Word16 :=
  match s.role with
  | .producer => s.valveCapacity
  | .store => s.valveCapacity
  | .consumer => grantedDrawOf s.ae.committed.queue s.address
  | .flare => BitVec.ofNat 16 s.ae.ownBurn

/-- The base setpoint at RESTART, REJOIN and founding: valve capacity at a PRODUCER or STORE, else 0 (R85). -/
def State.restingSetpoint (s : State) : Word16 :=
  match s.role with
  | .producer => s.valveCapacity
  | .store => s.valveCapacity
  | .consumer => 0
  | .flare => 0

/-- A setpoint held at or below the divergence cap (R105). -/
def capped (cap : Option Word16) (v : Word16) : Word16 :=
  match cap with
  | none => v
  | some c => if v.toNat ≤ c.toNat then v else c

/-- Whether the lead duty is given as held (R94); while DIVERGED only where the notice before was held (R97). A node
that returns to JOINED by agreement is given what R94 gives at that close (log 31). -/
def State.leadGiven (s : State) : Bool :=
  decide (s.ae.committed.duty = some s.address) && (decide (s.ae.join ≠ .diverged) || s.vd.lead)

/-- The base setpoint and the lead duty handed to the Valve Driver at a close or load (R50, R85, R94). -/
def handResults (s : State) : State :=
  giveLead s.leadGiven (handSetpoint (capped s.ae.cap s.computedSetpoint) s)

/-! Plant trip. -/

/-- A consumer keeps PLANT-TRIP-ISOLATE in step with its committed trip set (R76). -/
def plantTripReconcile (s : State) : State :=
  if s.role ≠ .consumer then s
  else if s.ae.committed.trips ≠ 0 ∧ s.ae.plantTrip = false then
    devicePush .plantTripIsolate (s.setAe { s.ae with plantTrip := true })
  else if s.ae.committed.trips = 0 ∧ s.ae.plantTrip = true then
    deviceWithdraw .plantTripIsolate (s.setAe { s.ae with plantTrip := false })
  else s

/-! The own-presence-LIVE notice. -/

/-- The notice, and what it withdraws (R14, R127, R128). -/
def ownLiveNotice (s : State) : State :=
  if s.ownEntry.presence = .live ∧ s.ae.ownLive = false then
    let s := deviceWithdraw .rejoinHold (s.setAe { s.ae with ownLive := true })
    if s.autoRelease then deviceWithdraw .startHold s else s
  else s

/-! Comparison with the result before. -/

/-- GRANT-CHANGED: a consumer's granted tier or a flare's placed burn differs from before (R67, R86). -/
def grantMoved (role : Role) (own : Address) (before after : AllocationEngine) : Bool :=
  match role with
  | .producer => false
  | .store => false
  | .consumer => decide (grantedTierOf before.committed.queue own ≠ grantedTierOf after.committed.queue own)
  | .flare => decide (before.ownBurn ≠ after.ownBurn)

/-- TRIP-CHANGED: the emptiness of the trip set changed (R76). -/
def tripsMoved (before after : Committed) : Bool := decide (before.trips = 0) != decide (after.trips = 0)

/-- The events that a close and a load have in common (R76, R86, R94). -/
def raiseMoved (before : AllocationEngine) (s : State) : State :=
  raiseIf (grantMoved s.role s.address before s.ae) .grantChanged
    (raiseIf (tripsMoved before.committed s.ae.committed) .tripChanged
      (raiseIf (decide (before.committed.duty ≠ s.ae.committed.duty)) .dutyChanged s))

end Sys2Proof.Machine
end

