-- ==== Sys2Proof/Machine/Tally.lean ====
section
/-! DEFINITION. Stage 1 of a close, the tally, and the choice of a serving station (R101, R102, R103, R106). -/

namespace Sys2Proof.Machine

/-- The digest of the last STATUS record of each address the test admits, by ascending address (R101). -/
def lastDigests (counted : Address → Bool) (journal : List Record) : List (Address × Word16) :=
  addresses.filterMap fun a =>
    if counted a then (statusesOf journal a).getLast?.map fun b => (a, b.digest) else none

/-- The tally of a close: the agreeing count and the differing addresses with their digests (R101). -/
structure Tally where
  agreeing : Nat
  differing : List (Address × Word16)
deriving DecidableEq, Repr

/-- Stage 1: the node counts itself once by its opening digest, and every other address by its last STATUS. -/
def tallyOf (own : Address) (opening : Word16) (journal : List Record) : Tally :=
  let heard := lastDigests (fun a => decide (a ≠ own)) journal
  { agreeing := 1 + (heard.filter fun p => decide (p.2 = opening)).length
    differing := heard.filter fun p => decide (p.2 ≠ opening) }

/-- R102: the differing count exceeds the agreeing count, or equals it with a lower address among the
differing senders than the node's own. The list ascends, so its head is the lowest. -/
def tallyDiverges (own : Address) (t : Tally) : Bool :=
  t.agreeing < t.differing.length ||
    (t.differing.length == t.agreeing && (match t.differing with
      | [] => false
      | (a, _) :: _ => decide (a < own)))

/-- R103: no differing digest and at least one peer that agrees. -/
def tallyAgrees (t : Tally) : Bool := t.differing.isEmpty && decide (2 ≤ t.agreeing)

/-- The join state after stage 1 (R102, R103). -/
def joinAfterTally (own : Address) (join : JoinState) (t : Tally) : JoinState :=
  match join with
  | .joined => if tallyDiverges own t then .diverged else .joined
  | .diverged => if tallyAgrees t then .joined else .diverged
  | .profile => .profile
  | .listening => .listening
  | .muted => .muted

/-- How many of the addresses carry a digest. -/
def digestCount (heard : List (Address × Word16)) (d : Word16) : Nat :=
  (heard.filter fun p => decide (p.2 = d)).length

/-- R106: the lowest address that carries the digest carried by the most addresses; of digests carried by
equally many, the one of the lowest address. In a list of ascending addresses this is the first address whose
digest no other digest outnumbers. -/
def chooseServer (heard : List (Address × Word16)) : Option Address :=
  (heard.find? fun p => heard.all fun q => decide (digestCount heard q.2 ≤ digestCount heard p.2)).map (·.1)

end Sys2Proof.Machine
end

