-- ==== Sys2Proof/Machine/RoundClose.lean ====
section
/-! DEFINITION. The close of a JOINED or DIVERGED node (R49, R50) and the witnessed close of a LISTENING one
(R42). The stages are in Machine/Close.lean; here they meet the rest of the node. -/

namespace Sys2Proof.Machine

/-! The ordinary close. -/

/-- The tally of the node's close, stage 1 (R101). -/
def State.closeTally (s : State) : Tally := tallyOf s.address s.ae.digest s.ae.journal

/-- The join state after stage 1 (R102, R103). -/
def State.closeJoin (s : State) : JoinState := joinAfterTally s.address s.ae.join s.closeTally

/-- What stages 2 to 6 leave. -/
def State.closeResult (s : State) : Allocated := closeState s.ae.committed s.ae.journal

/-- The divergence cap after stage 1 (R105): recorded at the close that enters DIVERGED, cleared by the return to
JOINED. -/
def State.closeCap (s : State) : Option Word16 :=
  match s.ae.join, s.closeJoin with
  | .joined, .diverged => some s.vd.baseSetpoint
  | _, .joined => none
  | _, _ => s.ae.cap

/-- The AE at the end of stage 7: committed state, digest, join state and cap of this close, the next round open
with an empty journal and its timer restarted (R48, R50, R100). -/
def State.closedEngine (s : State) (next : Word16) : AllocationEngine :=
  { s.ae with
    join := s.closeJoin, round := next, roundTimer := .running s.now, journal := []
    committed := s.closeResult.state, digest := stateDigest s.closeResult.state
    ownBurn := placedBurn s.closeResult.placed s.address, cap := s.closeCap }

/-- The serving station chosen at a close: where the node is DIVERGED after stage 1, among the differing digests
(R106). -/
def State.closeServer (s : State) : Option Address :=
  if s.closeJoin = .diverged then chooseServer s.closeTally.differing else none

/-- An attempt in progress fails at a close (R114, step 1). -/
def failAttempt (s : State) : State := if attempting s.ttu.phase then attemptFail s else s

/-- The TTU's close notice (R114): the attempt, then serving, then the next ASK. -/
def closeNotice (returned : Bool) (server : Option Address) (s : State) : State :=
  let s := if returned then attemptEnd s else failAttempt s
  let s := if isServing s.ttu.phase then servingEnd s else s
  askChosen server s

/-- A pending demand that stands TAKEN ends with the node's own last verdict (R66). -/
def demandClosed (s : State) : State :=
  if s.ae.demand.stage = .taken then
    s.setAe { s.ae with demand := { stage := .idle, outcome := .verdict s.ownEntry.verdict } }
  else s

/-- The events of a close (R14, R67, R76, R86, R94, R102, R103). -/
def closeEvents (before : AllocationEngine) (written : Word16) (s : State) : State :=
  let s := raiseIf (anyBecameLive before.committed.table s.ae.committed.table) .stationLive s
  let s := raiseIf (anyLeftLive before.committed.table s.ae.committed.table) .stationLost s
  let s := raiseIf (holdsStation written s.address) .verdict s
  let s := raiseMoved before s
  let s := raiseIf (decide (before.join ≠ s.ae.join)) .joinChange s
  raiseIf (decide (before.join = .joined ∧ s.ae.join = .diverged)) .diverged s

/-- The close that opens the round `next` (R49, R50). The results are handed on in the order in which R50 lists
them (log 7). -/
def performClose (next : Word16) (s : State) : State :=
  let closed := withdrawMark (s.setAe (s.closedEngine next))
  let handed := ownLiveNotice (plantTripReconcile (handResults closed))
  let noticed :=
    closeNotice (decide (s.ae.join = .diverged ∧ s.closeJoin = .joined)) s.closeServer handed
  let taken := if noticed.ae.committed.offer then automaticTake noticed else noticed
  let reported := latchAndReport (reofferHold taken)
  demandClosed (closeEvents s.ae s.closeResult.written reported)

/-! The witnessed close (R42). -/

/-- The ANNOUNCE offered where the announce mark is clear; the mark is set if it is admitted (R122). -/
def announceOnce (s : State) : State :=
  if s.ae.announced then s
  else
    let r := offerFrame (newFrame (.announce s.role) .ae) s
    if r.1 then r.2.setAe { r.2.ae with announced := true } else r.2

/-- The serving station a LISTENING node chooses: the last STATUS of every address counts as differing (R106). -/
def witnessedServer (journal : List Record) : Option Address := chooseServer (lastDigests (fun _ => true) journal)

/-- The witnessed close that opens the round `next` (R42, R107, R114, R122). -/
def witnessClose (next : Word16) (s : State) : State :=
  let found := holdsStatus s.ae.journal
  let opened := s.setAe { s.ae with journal := [], round := next }
  let announced := if found then announceOnce opened else opened
  closeNotice false (if found && announced.ae.announced then witnessedServer s.ae.journal else none) announced

/-! Taking in a MARK (R39, R40). -/

/-- A close of either kind that opens the round `next` (R39). -/
def closeInto (next : Word16) (s : State) : State :=
  match s.ae.join with
  | .joined => performClose next s
  | .diverged => performClose next s
  | .listening => witnessClose next s
  | .profile => s
  | .muted => s

/-- A MARK taken in while a round number is known (R39, R40). -/
def markKnown (carried : Word16) (s : State) : State :=
  if carried = nextRound s.ae.round then closeInto carried s
  else if carried = s.ae.round ∨ carried = 0 then countDuplicate s
  else closeInto carried (countSlip s)

/-- A MARK delivered (R39). -/
def takeMark (carried : Word16) (s : State) : State :=
  match s.ae.join with
  | .profile => s
  | .muted => s
  | .listening | .joined | .diverged =>
    if s.ae.round = 0 then
      if carried = 0 then countDuplicate s else s.setAe { s.ae with round := carried, journal := [] }
    else markKnown carried s

end Sys2Proof.Machine
end

