-- ==== Sys2Proof/Machine/Joining.lean ====
section
/-! DEFINITION. The load (R112), REJOIN (R115), founding (R123), the address clash (R22), the close of the profile
window (R121), RESTART (R125). -/

namespace Sys2Proof.Machine

/-! The load (R112). -/

/-- The committed state of a body with its placement computed afresh (R85). -/
def loadedPlacement (body : List Byte) : List (Address × Nat) × Nat :=
  placement (loadedState body) (grantedDraw (loadedState body).queue)

/-- The AE with the snapshot of a body and its header digest in place of its own committed state (R112). -/
def State.loadedEngine (s : State) (body : List Byte) (digest : Word16) : AllocationEngine :=
  { s.ae with
    join := .joined
    silenceTimer := .stopped
    committed := { loadedState body with unburnt := (loadedPlacement body).2 }
    digest
    ownBurn := placedBurn (loadedPlacement body).1 s.address
    cap := none
    ownLive := false }

/-- The snapshot taken in (R112). -/
def loadSnapshot (body : List Byte) (digest : Word16) (s : State) : State :=
  let loaded := (s.setTtu (idleTransfer 0)).setAe (s.loadedEngine body digest)
  let reported := latchAndReport (plantTripReconcile (handResults loaded))
  raiseMoved s.ae (raiseEvent .joinChange (raiseEvent .transferDone reported))

/-- The last data block is in: the snapshot is loaded or the attempt fails (R112). -/
def checkSnapshot (body : List Byte) (digest : Word16) (s : State) : State :=
  if snapshotAccepted body digest then loadSnapshot body digest s else attemptFail s

/-- A considered data block (R110, R111). -/
def dataReceived (headerRound : Word16) (index : Nat) (bytes : List Byte) (s : State) : State :=
  match s.ttu.phase with
  | .loading server attempt round digest count expected =>
    if blockFits round count expected index headerRound bytes then
      let buffer := s.ttu.buffer ++ bytes
      if index = count then checkSnapshot buffer digest s
      else
        s.setTtu
          { s.ttu with
            phase := .loading server attempt round digest count (expected + 1)
            buffer
            stallTimer := .running s.now }
    else attemptFail s
  | .asked _ _ => attemptFail s
  | .idle | .serving _ _ _ _ _ _ => s

/-! LISTENING afresh. -/

/-- The AE with the committed state cleared, as RESTART and REJOIN leave it (R16, R36, R48, R68, R87, R98, R116),
in LISTENING with both timers started (R37, R123). What the two events keep is kept. -/
def listeningEngine (a : AllocationEngine) (now : Nat) (line : LineState) : AllocationEngine :=
  { a with
    join := .listening
    round := 0
    roundTimer := .running now
    silenceTimer := if lineBusy line then .held else .running now
    journal := []
    committed := clearedState
    digest := 0
    ownBurn := 0
    cap := none
    ownLive := false
    announced := false
    demand := idleDemand
    hold := [] }

/-- REJOIN (R115). The captured duty of REJOIN-HOLD is the duty in effect, the round pushed 0 (R137, R142). -/
def performRejoin (s : State) : State :=
  let s := emptyQueue (s.setTtu (idleTransfer 0))
  let s := devicePush .rejoinHold (s.setAe (listeningEngine s.ae s.now s.lc.line))
  raiseEvent .joinChange (giveLead false (handSetpoint s.restingSetpoint s))

/-- REJOIN where the third attempt has failed (R113; log 14). -/
def settle (s : State) : State := if attemptLimit ≤ s.ttu.attempts then performRejoin s else s

/-! Founding (R123). -/

/-- The node founds (R123). -/
def performFounding (s : State) : State :=
  let s := attemptEnd s
  let s :=
    s.setAe
      { s.ae with
        join := .joined, round := 1, roundTimer := .running s.now, silenceTimer := .stopped, journal := []
        committed := clearedState, digest := stateDigest clearedState, ownBurn := 0, cap := none }
  let s := giveLead false (handSetpoint s.restingSetpoint (raiseEvent .joinChange s))
  latchAndReport (offerPlain (.announce s.role) (offerPlain .mark s))

/-! Address clash (R22). -/

/-- A demand that waits or was taken ends NOT-TAKEN at an address clash (R66, R68). -/
def demandMuted (d : PendingDemand) : PendingDemand :=
  match d.stage with
  | .idle => d
  | .queued | .taken => { stage := .idle, outcome := .notTaken }

/-- The AE's entry to MUTED (R36, R37, R48, R66, R68, R116). -/
def mutedEngine (a : AllocationEngine) (now : Nat) : AllocationEngine :=
  { a with
    join := .muted, roundTimer := .running now, silenceTimer := .stopped, journal := [], announced := false
    demand := demandMuted a.demand, hold := [] }

/-- An address clash (R22, R34, R98, R116, R128). The push of REJOIN-HOLD is a notice at which the Valve Driver recomputes
its target (R139), whatever R142 keeps at entry to MUTED (log 35). -/
def performClash (s : State) : State :=
  let s := emptyQueue (s.setTtu (idleTransfer 0))
  let s := s.setLc { s.lc with muted := true }
  let s := devicePush .rejoinHold (s.setAe (mutedEngine s.ae s.now))
  raiseEvent .joinChange (raiseEvent .addressClash (giveLead false s))

/-! The close of the profile window (R121). -/

/-- The profile loader takes words: in PROFILE with the window open (R118, R160). -/
def State.loaderOpen (s : State) : Bool := decide (s.ae.join = .profile) && s.pp.windowOpen

/-- The Sampler's spans from words 3 to 5, at every role (R121; log 32). -/
def withSpans (image : List Word16) (m : Sampler) : Sampler :=
  { m with span0 := imageWord image 3, span2 := imageWord image 4, span3 := imageWord image 5 }

/-- The last demanded tier from word 18, clipped to the length of the tier list (R121). -/
def defaultTier (image : List Word16) : Nat := min (imageWord image 18).toNat (imageDraws image).length

/-- The profile window closes (R121). -/
def closeWindow (s : State) : State :=
  let image := s.pp.image
  let s := s.setPp { s.pp with windowOpen := false, levels := imageWord image 17 }
  let s := s.setVd { s.vd with nextPeriod := (imageWord image 1).toNat }
  let s := s.setSmp (withSpans image s.smp)
  let s := s.setAe { s.ae with join := .listening, lastTier := defaultTier image }
  raiseEvent .joinChange (restartSilenceTimer (restartRoundTimer (handSetpoint s.restingSetpoint s)))

/-! RESTART (R125). -/

/-- The LC after RESTART (R34). The quiet measurement continues, and a rank that it has fixed stands (R24). -/
def restartedLink (lc : LinkController) (now : Nat) : LinkController :=
  { lc with
    queue := [], onLine := none, lastSender := 15, muted := false, line := fixView lc.line lc.lastSender now }

/-- The EIU after RESTART (R150). -/
def restartedInputs (role : Role) (u : EventInputUnit) (now : Nat) : EventInputUnit :=
  { esd := restedInput u.esd.pin u.esd.lost, trip := restedInput u.trip.pin u.trip.lost,
    permit := restedInput u.permit.pin u.permit.lost, aux := restedAux role u.aux.pin u.aux.lost,
    wait := restedWait role u.aux.pin now, flame := false, tripOutstanding := false }

/-- The Sampler after RESTART: the next scan starts 25 ms later (R151, R154). -/
def restartedSampler (m : Sampler) (now : Nat) : Sampler :=
  { m with history := [], smoothed := invalidChannels, scanning := none, nextScan := now + scanPeriod }

/-- An exchange in progress at RESTART completes against the emptied buffer: the word it shifts out is the reply
buffer's no longer (R162). -/
def detachedExchange : Exchange → Exchange
  | .none => .none
  | .shifting word _ => .shifting word false
  | .voided => .voided

/-- The Panel Port after RESTART, the accepted reply staged (R125, R160, R162). -/
def restartedPort (p : PanelPort) (reply : Word32) : PanelPort :=
  { p with
    flags := withFlag 0 .joinChange
    holding := none
    reply := some reply
    outcome := none
    sequenceMark := false
    overrunMark := false
    exchange := detachedExchange p.exchange }

/-- The AE after RESTART (R125). -/
def restartedEngine (a : AllocationEngine) (now : Nat) (line : LineState) : AllocationEngine :=
  { listeningEngine a now line with plantTrip := false, latched := invalidChannels }

/-- RESTART, with the reply the port stages when it is complete (R125). -/
def performRestart (reply : Word32) (s : State) : State :=
  let s := s.setAe (restartedEngine s.ae s.now s.lc.line)
  let s := (s.setLc (restartedLink s.lc s.now)).setTtu (idleTransfer 0)
  let s := (s.setEiu (restartedInputs s.role s.eiu s.now)).setSmp (restartedSampler s.smp s.now)
  let s := withStack s [startHoldEntry]
  (giveLead false (handSetpoint s.restingSetpoint s)).setPp (restartedPort s.pp reply)

end Sys2Proof.Machine
end

