-- ==== Sys2Proof/Machine/Delivery.lean ====
section
/-! DEFINITION. Delivery of good frames and gaps in line order (R20 to R23, R44 to R47). -/

namespace Sys2Proof.Machine

/-! Into the journal. -/

/-- The record a frame becomes; MARK, ASK and BLOCK frames become none (R43, R44). -/
def recordOf (f : GoodFrame) : Option Record :=
  match f.body with
  | .status b => some (.status f.sender b)
  | .claim b => some (.claim f.sender f.round b)
  | .yield tier => some (.yield f.sender tier)
  | .duty action => some (.duty f.sender action)
  | .announce role => some (.announce f.sender role)
  | .trip => some (.trip f.sender)
  | .clear target => some (.clear f.sender target)
  | .mark | .ask _ _ | .blockHeader _ _ _ _ _ _ | .blockData _ _ _ _ => none

/-- The join states in which the AE journals (R44). -/
def journals : JoinState → Bool
  | .listening => true
  | .joined => true
  | .diverged => true
  | .profile | .muted => false

/-- The journal takes records: the join state admits them and a round is open (R44). -/
def State.journalOpen (s : State) : Bool := journals s.ae.join && decide (s.ae.round ≠ 0)

/-- A STATUS whose header round differs from the open round (R21, R44). -/
def staleIn (openRound : Word16) (f : GoodFrame) : Bool :=
  match f.body with
  | .status _ => decide (f.round ≠ openRound)
  | .mark | .claim _ | .yield _ | .duty _ | .announce _ | .trip | .clear _ | .ask _ _
  | .blockHeader _ _ _ _ _ _ | .blockData _ _ _ _ => false

/-- A CLAIM frame. -/
def isClaim : FrameBody → Bool
  | .claim _ => true
  | .status _ | .mark | .yield _ | .duty _ | .announce _ | .trip | .clear _ | .ask _ _
  | .blockHeader _ _ _ _ _ _ | .blockData _ _ _ _ => false

/-- A record taken at the journal's end. -/
def appendRecord (r : Record) (s : State) : State := s.setAe { s.ae with journal := s.ae.journal ++ [r] }

/-- The pending demand's CLAIM was taken (R65). -/
def demandTaken (s : State) : State :=
  if s.ae.demand.stage = .queued then
    s.setAe { s.ae with demand := { stage := .taken, outcome := s.ae.demand.outcome } }
  else s

/-- The node's own frame past the fortieth record, by its kind (R47, R66, R122). -/
def ownNotTaken (body : FrameBody) (tracked : Bool) (s : State) : State :=
  match body with
  | .claim _ => raiseEvent .notTaken (if tracked then demandNotTaken s else s)
  | .yield _ => raiseEvent .notTaken s
  | .duty _ => raiseEvent .notTaken s
  | .announce _ => raiseEvent .notTaken (announceLost s)
  | .trip => raiseEvent .notTaken (holdFrame .trip s)
  | .clear target => raiseEvent .notTaken (holdFrame (.clear target) s)
  | .status _ | .mark | .ask _ _ | .blockHeader _ _ _ _ _ _ | .blockData _ _ _ _ => s

/-- An OFFER record whose sender the committed duty field names, taken: the node checks for its TAKE (R96). -/
def offerHeard (r : Record) (s : State) : State :=
  match r with
  | .duty a .offer => if s.ae.committed.duty = some a then automaticTake s else s
  | .duty _ .withdraw | .duty _ .take | .status _ _ | .claim _ _ _ | .yield _ _ | .announce _ _ | .trip _
  | .clear _ _ | .gap => s

/-- A frame that the AE may take into its journal (R44, R46). `own` says that the node sent it, `tracked` that the
pending demand follows it. -/
def journalFrame (own tracked : Bool) (f : GoodFrame) (r : Record) (s : State) : State :=
  if s.journalOpen = false ∨ staleIn s.ae.round f = true then s
  else if s.ae.journal.length < journalCapacity then
    let taken := offerHeard r (appendRecord r s)
    if own && tracked && isClaim f.body then demandTaken taken else taken
  else if own then ownNotTaken f.body tracked s
  else s

/-- A gap reported to the AE (R45). -/
def journalGap (s : State) : State :=
  if s.journalOpen = true ∧ s.ae.journal.length < journalCapacity then appendRecord .gap s else s

/-! Routing (R21). -/

/-- A good frame handed on by its kind (R21). -/
def deliverFrame (own tracked : Bool) (f : GoodFrame) (s : State) : State :=
  match f.body with
  | .mark => takeMark f.round s
  | .ask server attempt => askReceived f.sender server attempt s
  | .blockHeader addressee attempt status count round digest =>
    if s.considersBlock f.sender addressee attempt then headerReceived status count round digest s else s
  | .blockData addressee attempt index bytes =>
    if s.considersBlock f.sender addressee attempt then dataReceived f.round index bytes s else s
  | .status _ | .claim _ | .yield _ | .duty _ | .announce _ | .trip | .clear _ =>
    match recordOf f with
    | none => s
    | some r => journalFrame own tracked f r s

/-- A good frame counted, and the last-sender view set to its sender (R20, R23). -/
def acceptFrame (sender : Address) (s : State) : State :=
  let s := countGood s
  s.setLc { s.lc with lastSender := sender }

/-- An address clash: a frame the node had no part in bears its address; inactive in PROFILE, and nothing changes
while muted (R22). -/
def State.clashes (s : State) (own : OwnPart) (sender : Address) : Bool :=
  decide (own = .nothing ∧ sender = s.address ∧ s.ae.join ≠ .profile) && !s.lc.muted

/-- A good frame at its end (R20 to R23). The node's own was delivered as it counted as sent (R21, R26). A clash is
acted on before the frame is delivered (log 12). -/
def receiveGood (own : OwnPart) (chars : List Byte) (f : GoodFrame) (s : State) : State :=
  let s := acceptFrame f.sender s
  if own = .sent chars then s
  else deliverFrame false false f (if s.clashes own f.sender then performClash s else s)

/-- A failed frame at its end (R20). -/
def receiveFailed (s : State) : State := journalGap (countFailed s)

/-- The originator told that its frame was sent (R26): the TTU acts on the ASK and the BLOCK it follows (R107,
R109). -/
def sentNotice (q : QueuedFrame) (s : State) : State :=
  if q.tracked then
    match q.body with
    | .ask _ _ => askSent s
    | .blockHeader _ _ _ _ _ _ => blockSent s
    | .blockData _ _ _ _ => blockSent s
    | .status _ | .mark | .claim _ | .yield _ | .duty _ | .announce _ | .trip | .clear _ => s
  else s

end Sys2Proof.Machine
end

