-- ==== Sys2Proof/Machine/Link.lean ====
section
/-! DEFINITION. The commands of the allocation link: FRAME_START, COLLISION, FRAME_SENT, FRAME_END,
START_BIT_DETECTED. -/

namespace Sys2Proof.Machine

/-- What every command answers: the spec names nothing that stops the part, so there is always a next state. -/
abbrev Answer := Host.Outcome State Fault Refusal

/-! FRAME_START (R19, R24, R25; log 23). -/

/-- The quiet moment from which slots are counted; none while a frame has not ended (R17, R24). -/
def quietSince (l : LineState) : Option Nat :=
  match l with
  | .quiet since _ => some since
  | .busy _ _ _ => none

/-- The frame at the head of the queue, if the node may start it: the line is quiet, no own frame is on it, the
head is admitted (R24, R33). -/
def State.startable (s : State) : Option (QueuedFrame × Nat) :=
  match s.lc.onLine, s.lc.queue, quietSince s.lc.line with
  | none, q :: _, some since => if admits s.ae.join s.lc.muted q.body then some (q, since) else none
  | _, _, _ => none

/-- Whether so many slots of quiet are the moment at which the node starts (R24). -/
def State.startsAt (s : State) (since slots : Nat) : Bool :=
  let view := rankView s.lc.line s.lc.lastSender
  startMoment s.address view slots && firstMoment s.address view since s.now slots

/-- The frame put on the line, its round field and CRC filled now (R19). -/
def startFrame (q : QueuedFrame) (s : State) : State :=
  let round := filledRound q.body s.ae.round
  silenceAtFrameStart
    (s.setLc
      { s.lc with
        onLine := some { round, chars := frameChars s.address round q.body }, line := .busy s.now s.now .begun })

/-- FRAME_START after `slots` slots of quiet. -/
def execFrameStart (slots : Nat) (s : State) : Answer :=
  match s.startable with
  | none => .next s
  | some (q, since) =>
    if s.startsAt since slots then .next (startFrame q (advanceTo (since + accessSlot * slots) s)) else .next s

/-! COLLISION (R27, R28). -/

/-- The waiting frames with a collided frame back at their head, ahead of a TRIP or CLEAR that waited behind it
(R27; log 29). A collided STATUS gives way to a newer one that waits (R30; log 28). -/
def withCollided (q : QueuedFrame) (rest : List QueuedFrame) : List QueuedFrame :=
  if ofClass .status q && rest.any (ofClass .status) then rest else { q with collisions := q.collisions + 1 } :: rest

/-- The frame in progress with one more collision, waiting at the head, L at 15 (R27). The frame on the line has not
ended. -/
def collided (q : QueuedFrame) (rest : List QueuedFrame) (s : State) : State :=
  let s := countCollision s
  s.setLc { s.lc with queue := withCollided q rest, onLine := none, lastSender := 15 }

/-- The frame at the head discarded at its eighth collision (R28). -/
def discardHead (q : QueuedFrame) (rest : List QueuedFrame) (s : State) : State :=
  let s := countDiscard s
  discardNotice q (raiseIf (raisesNotTaken q.body) .notTaken (s.setLc { s.lc with queue := rest }))

/-- COLLISION: a character of the node's own frame failed the echo check. -/
def execCollision (s : State) : Answer :=
  match s.lc.onLine, s.lc.queue with
  | some _, q :: rest =>
    let c := collided q rest s
    .next (if collisionLimit ≤ q.collisions + 1 then settle (discardHead q rest c) else c)
  | _, _ => .next s

/-! FRAME_SENT (R26). -/

/-- The moment of the frame's first start bit. -/
def firstStart (l : LineState) (now : Nat) : Nat :=
  match l with
  | .quiet _ _ => now
  | .busy first _ _ => first

/-- The own frame out of the queue. It has not ended on the line: FRAME_END judges and counts it (R20). -/
def frameOff (chars : List Byte) (rest : List QueuedFrame) (s : State) : State :=
  let first := firstStart s.lc.line s.now
  s.setLc { s.lc with queue := rest, onLine := none, line := .busy first first (.sent chars) }

/-- The frame as the node's own LC delivers it. -/
def ownFrame (own : Address) (l : LineFrame) (q : QueuedFrame) : GoodFrame :=
  { sender := own, round := l.round, body := q.body }

/-- The steps of R26 in their order: removed, delivered (R21), the originator told. -/
def frameSent (l : LineFrame) (q : QueuedFrame) (rest : List QueuedFrame) (s : State) : State :=
  settle (sentNotice q (deliverFrame true q.tracked (ownFrame s.address l q) (frameOff l.chars rest s)))

/-- FRAME_SENT: the last character of the node's own frame passed the echo check. -/
def execFrameSent (s : State) : Answer :=
  match s.lc.onLine, s.lc.queue with
  | some l, q :: rest =>
    .next (frameSent l q rest (advanceTo (firstStart s.lc.line s.now + characterTime * l.chars.length) s))
  | _, _ => .next s

/-! FRAME_END (R17, R20). -/

/-- The end of the last character of a frame of so many characters: they follow its first start bit back to back, and
none ends before a character from its last start bit has passed (R17; log 2). -/
def lastCharacterEnd (l : LineState) (now length : Nat) : Nat :=
  match l with
  | .quiet _ _ => now + characterTime * length
  | .busy first last _ => max (last + characterTime) (first + characterTime * length)

/-- The node's own part in the frame on the line. -/
def ownPart (l : LineState) : OwnPart :=
  match l with
  | .quiet _ _ => .nothing
  | .busy _ _ own => own

/-- The line quiet since the last character, and the silence timer of a LISTENING node restarted (R17, R123). -/
def lineQuiet (since : Nat) (s : State) : State :=
  silenceAtFrameEnd (advanceTo (since + frameEndQuiet) (s.setLc { s.lc with line := .quiet since none }))

/-- The frame judged and acted on (R20). -/
def receiveFrame (own : OwnPart) (chars : List Byte) (framingError : Bool) (s : State) : State :=
  match judgeFrame chars framingError with
  | some f => receiveGood own chars f s
  | none => receiveFailed s

/-- FRAME_END of a frame or fragment on the line. While the node's own frame is in progress no frame ends (log 4). -/
def execFrameEnd (chars : List Byte) (framingError : Bool) (s : State) : Answer :=
  match s.lc.onLine with
  | some _ => .next s
  | none =>
    .next
      (settle
        (receiveFrame (ownPart s.lc.line) chars framingError
          (lineQuiet (lastCharacterEnd s.lc.line s.now chars.length) s)))

/-! START_BIT_DETECTED (R17, R24, R123). -/

/-- The line at a start bit: a frame begins, or the one that has not ended goes on (R17). -/
def atStartBit (l : LineState) (now : Nat) : LineState :=
  match l with
  | .quiet _ _ => .busy now now .nothing
  | .busy first _ own => .busy first now own

/-- START_BIT_DETECTED: the quiet measurement starts afresh, so a moment waited for is given up, and the silence
timer of a LISTENING node is held. While the node's own frame is in progress, a start bit of another changes nothing
until it makes a character of that frame fail (R27; log 4). -/
def execStartBitDetected (s : State) : Answer :=
  .next
    (if s.lc.onLine.isSome then s
    else silenceAtFrameStart (s.setLc { s.lc with line := atStartBit s.lc.line s.now }))

end Sys2Proof.Machine
end

