-- ==== Sys2Proof/Machine/Inputs.lean ====
section
/-! DEFINITION. The event inputs (R143 to R150): INPUT_EDGE, IN3_DEBOUNCE_EXPIRY, FLAME_PROVING_EXPIRY, and the
handler's taking of ESD_EVENT, TRIP_EVENT, PERMIT_EVENT, AUX_EVENT. -/

namespace Sys2Proof.Machine

/-! Latches (R143, R144). -/

/-- An edge that counts: the latch is set, or the edge is lost and counted. -/
def latchEdge (i : EventInput) : EventInput :=
  if i.latch then { i with lost := lostUp lostLimit i.lost } else { i with latch := true }

/-- An input with its pin and edge reference at a new level. -/
def atLevel (level : Bool) (i : EventInput) : EventInput := { i with pin := level, reference := level }

/-- An input after its pin took a level, with an edge latched where the change is of its sense. -/
def edgeTaken (counts : Bool) (level : Bool) (i : EventInput) : EventInput :=
  if counts then latchEdge (atLevel level i) else atLevel level i

/-- IN3 with its counted level changed: an AUX edge (R149). -/
def countedTaken (level : Bool) (i : EventInput) : EventInput :=
  if i.reference = level then i else latchEdge { i with reference := level }

/-- INPUT-LOST raised where an edge that counts met a set latch (R144). -/
def raiseLost (counts : Bool) (before : EventInput) (s : State) : State :=
  raiseIf (counts && before.latch) .inputLost s

/-! INPUT_EDGE. -/

/-- The ESD pin: a falling edge counts (R143). -/
def esdPin (level : Bool) (s : State) : State :=
  let counts := s.eiu.esd.reference && !level
  raiseLost counts s.eiu.esd (s.setEiu { s.eiu with esd := edgeTaken counts level s.eiu.esd })

/-- The TRIP pin: a rising edge counts (R143). -/
def tripPin (level : Bool) (s : State) : State :=
  let counts := !s.eiu.trip.reference && level
  raiseLost counts s.eiu.trip (s.setEiu { s.eiu with trip := edgeTaken counts level s.eiu.trip })

/-- The PERMIT pin: a rising edge counts (R143). -/
def permitPin (level : Bool) (s : State) : State :=
  let counts := !s.eiu.permit.reference && level
  raiseLost counts s.eiu.permit (s.setEiu { s.eiu with permit := edgeTaken counts level s.eiu.permit })

/-- IN3's counted level set at once, with its edge (R149). -/
def countAux (level : Bool) (s : State) : State :=
  raiseLost (decide (s.eiu.aux.reference ≠ level)) s.eiu.aux
    (s.setEiu { s.eiu with aux := countedTaken level s.eiu.aux })

/-- IN3's pin with its filter wait (R149). -/
def withAuxPin (level : Bool) (wait : Timer) (s : State) : State :=
  s.setEiu { s.eiu with aux := { s.eiu.aux with pin := level }, wait }

/-- The AUX pin feeds its filter (R149): at a flare a rise begins the 2000 ms and a fall makes the level not
proven at once; elsewhere every change begins the 10 ms afresh. -/
def auxPin (level : Bool) (s : State) : State :=
  if s.eiu.aux.pin = level then s
  else if s.role = .flare then
    if level then withAuxPin true (.running s.now) s else countAux false (withAuxPin false .stopped s)
  else withAuxPin level (.running s.now) s

/-- INPUT_EDGE: a pin takes a level. -/
def execInputEdge (input : InputPin) (level : Bool) (s : State) : Answer :=
  match input with
  | .esd => .next (esdPin level s)
  | .trip => .next (tripPin level s)
  | .permit => .next (permitPin level s)
  | .aux => .next (auxPin level s)

/-! The filter of IN3 (R149). -/

/-- The wait of IN3 at its end: the level the pin holds becomes the counted level. -/
def filterEnded (s : State) : State := countAux s.eiu.aux.pin (s.setEiu { s.eiu with wait := .stopped })

/-- IN3_DEBOUNCE_EXPIRY: at a PRODUCER, STORE or CONSUMER the pin level has held for 10 ms. -/
def execIn3DebounceExpiry (s : State) : Answer :=
  match timerDue s.eiu.wait debounceTime with
  | none => .next s
  | some due => .next (if s.role = .flare then s else filterEnded (advanceTo due s))

/-- FLAME_PROVING_EXPIRY: at a FLARE the pin has held high for 2000 ms. -/
def execFlameProvingExpiry (s : State) : Answer :=
  match timerDue s.eiu.wait provingTime with
  | none => .next s
  | some due => .next (if s.role = .flare then filterEnded (advanceTo due s) else s)

/-! The events taken (R145). -/

/-- A frame of the EIU offered; a TRIP or CLEAR the LC refuses goes to the AE's hold (R146, R148). -/
def offerOrHold (body : FrameBody) (held : HeldFrame) (s : State) : State :=
  let r := offerFrame (newFrame body .eiu) s
  if r.1 then r.2 else holdFrame held r.2

/-- A frame of the EIU offered, and left where it is refused (R147, R148). -/
def offerInput (body : FrameBody) (s : State) : State := (offerFrame (newFrame body .eiu) s).2

/-- An input with its latch cleared, as its event is taken (R143). -/
def takenInput (i : EventInput) : EventInput := { i with latch := false }

/-- The actions of an ESD event (R146). -/
def esdActions (s : State) : State :=
  let s := if s.role = .flare then s else devicePush .esdIsolate s
  let s := offerOrHold .trip .trip s
  s.setEiu { s.eiu with tripOutstanding := true }

/-- ESD_EVENT: the highest priority, so it is taken whenever its latch is set. -/
def execEsdEvent (s : State) : Answer :=
  if s.eiu.esd.latch then
    .next (settle (esdActions (s.setEiu { s.eiu with esd := takenInput s.eiu.esd })))
  else .next s

/-- The actions of a TRIP event (R147). -/
def tripActions (s : State) : State :=
  let s := devicePush .tripIsolate s
  if s.role = .consumer then offerInput (.yield 0) s else s

/-- TRIP_EVENT: taken where no ESD is latched (R145). -/
def execTripEvent (s : State) : Answer :=
  if s.eiu.trip.latch && !s.eiu.esd.latch then
    .next (tripActions (s.setEiu { s.eiu with trip := takenInput s.eiu.trip }))
  else .next s

/-- The release conditions of START-HOLD (R126). -/
def State.mayRelease (s : State) : Bool :=
  decide (s.ae.join = .joined) && s.ae.ownLive && decide (s.ownEntry.presence = .live)

/-- The node's own TRIP taken out of the hold (R148, step 2). -/
def dropHeldTrip (s : State) : State :=
  s.setAe { s.ae with hold := s.ae.hold.filter fun h => decide (h ≠ .trip) }

/-- The CLEAR of a PERMIT event, where the node is in its committed trip set or has a TRIP outstanding; the mark is
cleared (R148, step 3). -/
def clearOwnTrip (s : State) : State :=
  let due := holdsStation s.ae.committed.trips s.address || s.eiu.tripOutstanding
  let s := if due then offerOrHold (.clear s.address) (.clear s.address) s else s
  s.setEiu { s.eiu with tripOutstanding := false }

/-- The actions of a PERMIT event in their order (R148). -/
def permitActions (s : State) : State :=
  let mayRelease := s.mayRelease
  let s := deviceWithdraw .tripIsolate (deviceWithdraw .esdIsolate s)
  let s := clearOwnTrip (dropHeldTrip s)
  let s := if mayRelease then deviceWithdraw .startHold s else s
  if s.role = .consumer ∧ s.autoResume = true then offerInput (s.claimFor s.ae.lastTier) s else s

/-- PERMIT_EVENT: taken where neither ESD nor TRIP is latched (R145). -/
def execPermitEvent (s : State) : Answer :=
  if s.eiu.permit.latch && !s.eiu.esd.latch && !s.eiu.trip.latch then
    .next (settle (permitActions (s.setEiu { s.eiu with permit := takenInput s.eiu.permit })))
  else .next s

/-- The actions of an AUX event (R149). -/
def auxActions (s : State) : State :=
  let s := if s.role = .flare then s.setEiu { s.eiu with flame := s.eiu.aux.reference } else s
  raiseEvent .auxChange s

/-- AUX_EVENT: the lowest priority (R145). -/
def execAuxEvent (s : State) : Answer :=
  if s.eiu.aux.latch && !s.eiu.esd.latch && !s.eiu.trip.latch && !s.eiu.permit.latch then
    .next (auxActions (s.setEiu { s.eiu with aux := takenInput s.eiu.aux }))
  else .next s

end Sys2Proof.Machine
end

