-- ==== Sys2Proof/Machine/PanelFormat.lean ====
section
/-! DEFINITION. Reply words, the checks of the profile words, and the handler's rules (R119, R156, R158, R166,
R167). -/

namespace Sys2Proof.Machine

/-! Command codes (R166). -/

def codeNop : Nat := 0x00
def codeStatus : Nat := 0x01
def codeContract : Nat := 0x02
def codeWindow : Nat := 0x03
def codeRead : Nat := 0x04
def codeEvents : Nat := 0x05
def codeAck : Nat := 0x06
def codeMask : Nat := 0x07
def codeDemand : Nat := 0x08
def codePush : Nat := 0x09
def codePop : Nat := 0x0A
def codeHandover : Nat := 0x0B
def codeTripClear : Nat := 0x0C
def codeRelease : Nat := 0x0D
def codeRestart : Nat := 0x0E
def codeProfileWord : Nat := 0x0F
def codeProfileDone : Nat := 0x10
def codeCancel : Nat := 0x11

/-! Reply words (R158, R167). -/

/-- The refusal statuses, bits 0 to 4 of the status byte (R158). -/
inductive RefusalStatus
  | notJoined | busy | illegal | parameter | sequence
deriving DecidableEq, Repr

/-- The status bit of a refusal (R158). -/
def refusalBits : RefusalStatus → Byte
  | .notJoined => 0x01
  | .busy => 0x02
  | .illegal => 0x04
  | .parameter => 0x08
  | .sequence => 0x10

/-- The status bit of a CANCEL outcome (R158). -/
def cancelBit : Word32 := 0x20000000
/-- The OVERRUN bit of the status byte (R158). -/
def overrunBit : Word32 := 0x40000000
/-- The REPLY bit of the status byte (R158). -/
def replyBit : Word32 := 0x80000000

/-- The four bytes of a word, status byte first (R167). -/
def wordOf (status d1 d2 d3 : Byte) : Word32 := status ++ d1 ++ d2 ++ d3

/-- Data byte 1: the code in bits 4:0 and the field in bits 7:5 (R167). -/
def dataByte1 (code field : Nat) : Byte := byteOf (code % 32 + 32 * (field % 8))

/-- An accepted reply with its results: the field of data byte 1 and data bytes 2 and 3. -/
def acceptedReply (code field : Nat) (data : Word16) : Word32 :=
  wordOf 0 (dataByte1 code field) (data.extractLsb' 8 8) (data.extractLsb' 0 8)

/-- An accepted reply without results. -/
def plainReply (code : Nat) : Word32 := acceptedReply code 0 0

/-- A refused reply: one status, the code, no results (R158). -/
def refusedReply (code : Nat) (r : RefusalStatus) : Word32 := wordOf (refusalBits r) (dataByte1 code 0) 0 0

/-- The CANCELLED outcome, naming the command discarded (R167). Its data byte 3 is 0 (log 33). -/
def cancelledOutcome (discarded : Word32) : Word32 := cancelBit ||| wordOf 0 0x01 (byteOf (commandCode discarded)) 0

/-- The TOO-LATE outcome (R167). Its data byte 3 is 0 (log 33). -/
def tooLateOutcome : Word32 := cancelBit ||| wordOf 0 0x02 0x11 0

/-- Two bytes as data bytes 2 and 3. -/
def dataOf (d2 d3 : Nat) : Word16 := wordOfBytes (byteOf d2) (byteOf d3)

/-! The handler (R156). -/

/-- A reply staged in the reply buffer. -/
def stageReply (reply : Word32) (s : State) : State := s.setPp { s.pp with reply := some reply }

/-- The handler can take a held command: the reply buffer is empty and no outcome is pending (R156). -/
def handlerFree (p : PanelPort) : Bool := p.reply.isNone && p.outcome.isNone

/-- The held command that the handler can take now, if it has the code (R156). -/
def State.takeable (s : State) (code : Nat → Bool) : Option Word32 :=
  match s.pp.holding with
  | none => none
  | some w => if code (commandCode w) && handlerFree s.pp then some w else none

/-- The holding register emptied by the taking (R156). -/
def emptyHolding (s : State) : State := s.setPp { s.pp with holding := none }

/-- The handler takes a held command with the code, or nothing happens (R156; log 5). -/
def takeHeld (code : Nat) (command : Word32 → State → State) (s : State) : State :=
  match s.takeable (fun c => decide (c = code)) with
  | none => s
  | some w => command w (emptyHolding s)

/-! The checks of the profile words (R119). -/

/-- The tier draws of an image, tier 1 first. -/
def imageTiers (image : List Word16) : List Nat := [6, 7, 8, 9, 10].map fun i => (imageWord image i).toNat

/-- Every tier above holds no draw or a draw above `d`. -/
def belowHeld (d : Nat) (above : List Nat) : Bool := above.all fun t => decide (t = 0 ∨ d < t)

/-- A tier draw is accepted (words 6 to 10); `k` counts the tiers from 0. -/
def tierAccepted (image : List Word16) (k v : Nat) : Bool :=
  let above := (imageTiers image).drop (k + 1)
  if k = 0 then decide (1 ≤ v ∧ v ≤ 4095) && belowHeld v above
  else if v = 0 then above.all fun t => decide (t = 0)
  else
    let below := (imageTiers image).getD (k - 1) 0
    decide (v ≤ 4095 ∧ 0 < below ∧ below < v) && belowHeld v above

/-- L and F (word 13): L below F, F from 10 to 100 and below the held FH. -/
def bandsAccepted (image : List Word16) (v : Word16) : Bool :=
  let low := (highByte v).toNat
  let flareBand := (lowByte v).toNat
  decide (low < flareBand ∧ 10 ≤ flareBand ∧ flareBand ≤ 100 ∧ flareBand < (highByte (imageWord image 14)).toNat)

/-- FH and k (word 14): FH no greater than 100 and above the held F. -/
def fullBandAccepted (image : List Word16) (v : Word16) : Bool :=
  let full := (highByte v).toNat
  decide (full ≤ 100 ∧ (lowByte (imageWord image 13)).toNat < full)

/-- The check of a profile word at an index 0 to 19 (R119). -/
def profileAccepted (image : List Word16) (index : Nat) (v : Word16) : Bool :=
  match index with
  | 0 => decide (v.toNat < 8)
  | 1 => decide (10 ≤ v.toNat ∧ v.toNat ≤ 100)
  | 2 | 3 | 4 | 5 => decide (1 ≤ v.toNat)
  | 6 => tierAccepted image 0 v.toNat
  | 7 => tierAccepted image 1 v.toNat
  | 8 => tierAccepted image 2 v.toNat
  | 9 => tierAccepted image 3 v.toNat
  | 10 => tierAccepted image 4 v.toNat
  | 11 => decide (v.toNat ≤ 100)
  | 12 | 15 | 16 | 17 => true
  | 13 => bandsAccepted image v
  | 14 => fullBandAccepted image v
  | 18 => decide (v.toNat ≤ 5)
  | 19 => decide (v.toNat ≤ 1023)
  | _ => false

end Sys2Proof.Machine
end

