-- ==== Sys2Proof/Machine/Panel.lean ====
section
/-! DEFINITION. The panel commands as the handler performs them (R159 to R161): checks, effect, and the one reply
staged. Each takes the held command word, whose bytes 1 to 3 are its arguments (R166). -/

namespace Sys2Proof.Machine

/-- A refusal: nothing changes but the reply (R160). -/
def refuse (code : Nat) (r : RefusalStatus) (s : State) : State := stageReply (refusedReply code r) s

/-- An accepted command without results. -/
def accept (code : Nat) (s : State) : State := stageReply (plainReply code) s

/-! Reading commands (R159). -/

/-- NOP: the link counter selected (R35). -/
def commandNop (w : Word32) (s : State) : State :=
  match counterOf s.lc.counters (argument1 w) with
  | some c => stageReply (acceptedReply codeNop 0 c) s
  | none => refuse codeNop .parameter s

/-- STATUS page 0 (R159, R167). -/
def statusPage0 (s : State) : Word32 :=
  acceptedReply codeStatus (joinStateCode s.ae.join)
    (dataOf (presenceCode s.ownEntry.presence + 4 * governingCode (governingKind s.ovs.stack))
      (s.ae.round.toNat % 256))

/-- STATUS pages 1 to 4: a latched value and its validity; the value bytes of an INVALID channel are a free value
(R153, R167; log 10). -/
def statusChannel (reading : Option Word16) (s : State) : State :=
  match reading with
  | some v => stageReply (acceptedReply codeStatus 1 v) s
  | none =>
    stageReply (acceptedReply codeStatus 0 (Config.invalidReading s.freeCount))
      (s.setFreeCount (s.freeCount + 1))

/-- STATUS page 5: the lost counts (R144, R167). -/
def statusLost (s : State) : Word32 :=
  acceptedReply codeStatus 0
    (dataOf (16 * s.eiu.esd.lost + s.eiu.trip.lost) (16 * s.eiu.permit.lost + s.eiu.aux.lost))

/-- STATUS (R159). -/
def commandStatus (w : Word32) (s : State) : State :=
  match argument1 w with
  | 0 => stageReply (statusPage0 s) s
  | 1 => statusChannel s.ae.latched.ch0 s
  | 2 => statusChannel s.ae.latched.ch1 s
  | 3 => statusChannel s.ae.latched.ch2 s
  | 4 => statusChannel s.ae.latched.ch3 s
  | 5 => stageReply (statusLost s) s
  | _ => refuse codeStatus .parameter s

/-- A station's position in the queue, counted from 1, 0 if it holds no entry (R67). -/
def positionOf (queue : List QueueEntry) (a : Address) : Nat :=
  match queue.findIdx? fun q => decide (q.claimant = a) with
  | some k => k + 1
  | none => 0

/-- CONTRACT, half 0: the node's own entry (R67, R167). -/
def contractEntry (s : State) : Word16 :=
  match queueEntryOf s.ae.committed.queue s.address with
  | none => 0
  | some q =>
    dataOf (q.requested % 8 + 8 * (q.granted % 8) + 64 * entryStateCode q.state)
      (positionOf s.ae.committed.queue s.address)

/-- CONTRACT, half 1: the own last verdict and the pending demand (R67, R167). -/
def contractDemand (s : State) : Word16 :=
  dataOf (verdictCode s.ownEntry.verdict + 16 * demandStageCode s.ae.demand.stage)
    (outcomeCode s.ae.demand.outcome)

/-- CONTRACT (R67). -/
def commandContract (w : Word32) (s : State) : State :=
  stageReply
    (acceptedReply codeContract 0 (if argument1 w % 2 = 0 then contractEntry s else contractDemand s)) s

/-- WINDOW: selects an entry and sets the part counter to 0 (R15). -/
def commandWindow (w : Word32) (s : State) : State :=
  match addressOfCode (argument1 w) with
  | some n => accept codeWindow (s.setPp { s.pp with windowIndex := n, part := 0 })
  | none => refuse codeWindow .parameter s

/-- READ part 0 of an entry (R167). -/
def readPart0 (c : Committed) (n : Address) : Word32 :=
  let e := entryOf c.table n
  acceptedReply codeRead (roleCode e.role)
    (dataOf
      (presenceCode e.presence + 4 * (e.heard % 2) + 8 * (e.miss % 4) + 32 * flagBit e.flame
        + 64 * flagBit e.dutyAllowed + 128 * flagBit (holdsStation c.trips n))
      (verdictCode e.verdict + 16 * governingCode e.governing))

/-- READ parts 1 and 2: a figure slot with its age, and a flag of the node in bit 7 (R167; log 16). -/
def readSlot (c : Committed) (n : Address) (slot : Nat) (flag : Bool) : Word32 :=
  let e := entryOf c.table n
  acceptedReply codeRead (shownAge e slot + 4 * flagBit flag) (shownValue e slot)

/-- READ part 3: the duty-holder bit and the unburnt figure, saturated (R167). -/
def readPart3 (c : Committed) (n : Address) : Word32 :=
  acceptedReply codeRead (flagBit (decide (c.duty = some n))) (BitVec.ofNat 16 (min 65535 c.unburnt))

/-- A part of the selected entry, from the committed state as it stands (R15). -/
def readPart (c : Committed) (n : Address) (part : Fin 4) : Word32 :=
  match part with
  | 0 => readPart0 c n
  | 1 => readSlot c n 0 c.offer
  | 2 => readSlot c n 1 c.flaring
  | 3 => readPart3 c n

/-- READ: the current part; the counter advances from 3 to 0 (R15, R159). -/
def commandRead (_w : Word32) (s : State) : State :=
  stageReply (readPart s.ae.committed s.pp.windowIndex s.pp.part) (s.setPp { s.pp with part := s.pp.part + 1 })

/-- EVENTS: the flags, or the masks (R159, R167). -/
def commandEvents (w : Word32) (s : State) : State :=
  stageReply (acceptedReply codeEvents 0 (if argument1 w % 2 = 0 then s.pp.flags else s.pp.masks)) s

/-- ACK: the flags named are cleared, and the flags returned as they then stand (R161). -/
def commandAck (w : Word32) (s : State) : State :=
  let flags := acknowledged s.pp.flags (argumentWord12 w)
  stageReply (acceptedReply codeAck 0 flags) (s.setPp { s.pp with flags })

/-- MASK: all mask bits set to the value, and returned (R161). -/
def commandMask (w : Word32) (s : State) : State :=
  stageReply (acceptedReply codeMask 0 (argumentWord12 w)) (s.setPp { s.pp with masks := argumentWord12 w })

/-! Commands that act on the node (R160). -/

/-- The CLAIM of a demand offered: admitted, the pending demand is QUEUED; refused, it stays IDLE (R64, R65;
log 15). -/
def passDemand (tier : Nat) (s : State) : State :=
  let s := s.setAe { s.ae with lastTier := tier }
  let r := offerFrame { body := s.claimFor tier, originator := .ae, tracked := true, collisions := 0 } s
  if r.1 then
    accept codeDemand
      (r.2.setAe { r.2.ae with demand := { stage := .queued, outcome := r.2.ae.demand.outcome } })
  else refuse codeDemand .busy r.2

/-- DEMAND (R160). -/
def commandDemand (w : Word32) (s : State) : State :=
  if s.role ≠ .consumer then refuse codeDemand .illegal s
  else if inRounds s.ae.join = false then refuse codeDemand .notJoined s
  else if s.ownEntry.presence ≠ .live then refuse codeDemand .notJoined s
  else if (imageDraws s.pp.image).length < argument1 w then refuse codeDemand .parameter s
  else if s.ae.demand.stage ≠ .idle then refuse codeDemand .busy s
  else passDemand (argument1 w) s

/-- The value a panel entry holds: that of LIMIT and FIXED, else 0 (R130, R133). -/
def pushValue (kind : OverrideKind) (v : Word16) : Word16 :=
  match kind with
  | .limit => v
  | .fixed => v
  | .hold | .isolate | .startHold | .esdIsolate | .tripIsolate | .plantTripIsolate | .rejoinHold => 0

/-- A panel entry placed, or refused with PARAMETER where all five entries are the device's (R134). -/
def placePanel (kind : OverrideKind) (v : Word16) (s : State) : State :=
  let r := placeOverride kind (pushValue kind v) s
  if r.1 then accept codePush r.2 else refuse codePush .parameter r.2

/-- PUSH (R133). -/
def commandPush (w : Word32) (s : State) : State :=
  match pushKindOfCode (argument1 w) with
  | none => refuse codePush .illegal s
  | some kind =>
    if kind = .fixed ∧ (s.profileWord 19).toNat < (argumentWord23 w).toNat then refuse codePush .parameter s
    else placePanel kind (argumentWord23 w) s

/-- POP: the newest non-VOID PANEL entry withdrawn, its kind and round pushed returned (R135, R167). -/
def commandPop (_w : Word32) (s : State) : State :=
  match newestPanel s.ovs.stack with
  | none => refuse codePop .sequence s
  | some e =>
    stageReply (acceptedReply codePop (pushCode e.kind) e.round)
      (withStack s (withdrawn (fun x => panelKind x.kind) s.ovs.stack))

/-- The DUTY frame of a HANDOVER offered; refused by the LC, the reply is BUSY (R95, R160). -/
def passHandover (action : DutyAction) (s : State) : State :=
  let r := offerFrame (newFrame (.duty action) .ae) s
  if r.1 then accept codeHandover r.2 else refuse codeHandover .busy r.2

/-- HANDOVER (R95); an argument above 1 is refused after those checks (R166). -/
def commandHandover (w : Word32) (s : State) : State :=
  if inRounds s.ae.join = false then refuse codeHandover .notJoined s
  else if s.role ≠ .flare ∨ s.ae.committed.duty ≠ some s.address then refuse codeHandover .illegal s
  else
    match argument1 w with
    | 0 => passHandover .offer s
    | 1 => passHandover .withdraw s
    | _ => refuse codeHandover .parameter s

/-- The CLEAR of a TRIP-CLEAR offered; refused by the LC, the reply is BUSY and the CLEAR is not held (R160). -/
def passTripClear (target : Address) (s : State) : State :=
  let r := offerFrame (newFrame (.clear target) .ae) s
  if r.1 then accept codeTripClear r.2 else refuse codeTripClear .busy r.2

/-- TRIP-CLEAR (R160). -/
def commandTripClear (w : Word32) (s : State) : State :=
  match addressOfCode (argument1 w) with
  | none => refuse codeTripClear .parameter s
  | some target =>
    if inRounds s.ae.join = false then refuse codeTripClear .notJoined s else settle (passTripClear target s)

/-- RELEASE (R126). -/
def commandRelease (_w : Word32) (s : State) : State :=
  if s.mayRelease then accept codeRelease (deviceWithdraw .startHold s) else refuse codeRelease .notJoined s

/-- RESTART (R125, R160). -/
def commandRestart (_w : Word32) (s : State) : State :=
  if s.ae.join = .profile then refuse codeRestart .sequence s else performRestart (plainReply codeRestart) s

/-- A word stored and its position marked written; with all twenty written the window closes (R118). -/
def storeWord (index : Nat) (v : Word16) (s : State) : State :=
  let s := s.setPp { s.pp with image := s.pp.image.set index v, written := s.pp.written.set index true }
  if s.pp.written.all id then closeWindow s else s

/-- PROFILE-WORD (R118, R119). -/
def commandProfileWord (w : Word32) (s : State) : State :=
  if s.loaderOpen = false then refuse codeProfileWord .sequence s
  else if profileAccepted s.pp.image (argument1 w) (argumentWord23 w) then
    accept codeProfileWord (storeWord (argument1 w) (argumentWord23 w) s)
  else refuse codeProfileWord .parameter s

/-- PROFILE-DONE (R121). -/
def commandProfileDone (_w : Word32) (s : State) : State :=
  if s.loaderOpen then accept codeProfileDone (closeWindow s) else refuse codeProfileDone .sequence s

/-- A code that names no command (R158, R166). -/
def commandIllegal (w : Word32) (s : State) : State := refuse (commandCode w) .illegal s

/-! The rows of the table: the handler takes a held command of that code. -/

/-- NOP. -/
def execNop (s : State) : Answer := .next (takeHeld codeNop commandNop s)
/-- STATUS. -/
def execStatus (s : State) : Answer := .next (takeHeld codeStatus commandStatus s)
/-- CONTRACT. -/
def execContract (s : State) : Answer := .next (takeHeld codeContract commandContract s)
/-- WINDOW. -/
def execWindow (s : State) : Answer := .next (takeHeld codeWindow commandWindow s)
/-- READ. -/
def execRead (s : State) : Answer := .next (takeHeld codeRead commandRead s)
/-- EVENTS. -/
def execEvents (s : State) : Answer := .next (takeHeld codeEvents commandEvents s)
/-- ACK. -/
def execAck (s : State) : Answer := .next (takeHeld codeAck commandAck s)
/-- MASK. -/
def execMask (s : State) : Answer := .next (takeHeld codeMask commandMask s)
/-- DEMAND. -/
def execDemand (s : State) : Answer := .next (takeHeld codeDemand commandDemand s)
/-- PUSH. -/
def execPush (s : State) : Answer := .next (takeHeld codePush commandPush s)
/-- POP. -/
def execPop (s : State) : Answer := .next (takeHeld codePop commandPop s)
/-- HANDOVER. -/
def execHandover (s : State) : Answer := .next (takeHeld codeHandover commandHandover s)
/-- TRIP-CLEAR. -/
def execTripClear (s : State) : Answer := .next (takeHeld codeTripClear commandTripClear s)
/-- RELEASE. -/
def execRelease (s : State) : Answer := .next (takeHeld codeRelease commandRelease s)
/-- RESTART. -/
def execRestart (s : State) : Answer := .next (takeHeld codeRestart commandRestart s)
/-- PROFILE-WORD. -/
def execProfileWord (s : State) : Answer := .next (takeHeld codeProfileWord commandProfileWord s)
/-- PROFILE-DONE. -/
def execProfileDone (s : State) : Answer := .next (takeHeld codeProfileDone commandProfileDone s)

/-- ILLEGAL_COMMAND_CODE: the handler takes a held word whose code names no command (R166). -/
def execIllegalCommandCode (s : State) : Answer :=
  match s.takeable fun c => decide (codeCancel < c) with
  | none => .next s
  | some w => .next (commandIllegal w (emptyHolding s))

end Sys2Proof.Machine
end

