-- ==== Sys2Proof/Machine/Exchange.lean ====
section
/-! DEFINITION. The exchanges of the Panel Port (R155 to R157): EXCHANGE_START, EXCHANGE_END, CANCEL. -/

namespace Sys2Proof.Machine

/-! EXCHANGE_START (R155). -/

/-- OVERRUN where the sequence mark or the overrun mark is set (R155). -/
def markBits (p : PanelPort) : Word32 := if p.sequenceMark || p.overrunMark then overrunBit else 0

/-- The word the port fixes at SEL falling, and whether it is a reply (R155). -/
def fixedWord (p : PanelPort) : Word32 × Bool :=
  match p.reply with
  | some r => (r ||| replyBit ||| markBits p, true)
  | none => (markBits p, false)

/-- EXCHANGE_START: SEL falls. -/
def execExchangeStart (s : State) : Answer :=
  .next
    (match s.pp.exchange with
    | .none => s.setPp { s.pp with exchange := .shifting (fixedWord s.pp).1 (fixedWord s.pp).2 }
    | .shifting _ _ | .voided => s)

/-! CANCEL (R157). -/

/-- An outcome staged: into the reply buffer if it is empty, else pending (R157). -/
def stageOutcome (o : Word32) (s : State) : State :=
  match s.pp.reply with
  | none => s.setPp { s.pp with reply := some o }
  | some _ => s.setPp { s.pp with outcome := some o }

/-- A word discarded with the overrun mark (R156, R157). -/
def overrun (s : State) : State := s.setPp { s.pp with overrunMark := true }

/-- The port acts on a CANCEL; while an outcome is pending it is discarded and the overrun mark set (R157). -/
def performCancel (s : State) : State :=
  match s.pp.outcome, s.pp.holding with
  | some _, _ => overrun s
  | none, some w => stageOutcome (cancelledOutcome w) (emptyHolding s)
  | none, none => stageOutcome tooLateOutcome s

/-- CANCEL: the port's act on its own (log 6). -/
def execCancel (s : State) : Answer := .next (performCancel s)

/-! EXCHANGE_END (R155, R156). -/

/-- A command performed by its code (R159, R160, R166). -/
def performCommand (w : Word32) (s : State) : State :=
  match commandCode w with
  | 0x00 => commandNop w s
  | 0x01 => commandStatus w s
  | 0x02 => commandContract w s
  | 0x03 => commandWindow w s
  | 0x04 => commandRead w s
  | 0x05 => commandEvents w s
  | 0x06 => commandAck w s
  | 0x07 => commandMask w s
  | 0x08 => commandDemand w s
  | 0x09 => commandPush w s
  | 0x0A => commandPop w s
  | 0x0B => commandHandover w s
  | 0x0C => commandTripClear w s
  | 0x0D => commandRelease w s
  | 0x0E => commandRestart w s
  | 0x0F => commandProfileWord w s
  | 0x10 => commandProfileDone w s
  | _ => commandIllegal w s

/-- The handler takes whatever command is held, if it can (R156). -/
def handlerTakes (s : State) : State :=
  match s.takeable fun _ => true with
  | none => s
  | some w => performCommand w (emptyHolding s)

/-- The pending outcome moves into the buffer as the buffer empties (R155, R157). -/
def emptyReply (p : PanelPort) : PanelPort := { p with reply := p.outcome, outcome := none }

/-- The first steps of a good exchange: a reply shifted out is emptied, the marks are cleared (R155). -/
def endExchange (isReply : Bool) (p : PanelPort) : PanelPort :=
  let p := if isReply then emptyReply p else p
  { p with sequenceMark := false, overrunMark := false, exchange := .none }

/-- An arriving command word other than CANCEL (R156). -/
def arrive (w : Word32) (s : State) : State :=
  match s.pp.holding with
  | none => s.setPp { s.pp with holding := some w }
  | some _ => overrun s

/-- The handler is to take a held RESTART that is performed (R156, R160). -/
def State.restartHeld (s : State) : Bool :=
  (s.takeable fun c => decide (c = codeRestart)).isSome && decide (s.ae.join ≠ .profile)

/-- A CANCEL whose good exchange has ended (R157). Whether an outcome is pending is judged as SEL rises, before the step
that moves the outcome into the buffer it empties: `pending` (log 36). Else the handler's taking of the held command and
the CANCEL meet, either first (`handlerFirst`, log 6), where the exchange read the reply that blocked the handler:
`isReply`. Where it read none, the handler was free before the CANCEL and comes first (R156). -/
def takeCancel (pending isReply handlerFirst : Bool) (s : State) : State :=
  if pending then overrun s
  else performCancel (if isReply && !handlerFirst then s else handlerTakes s)

/-- A word other than CANCEL whose good exchange has ended (R156, R160): the handler takes a held command before the word
is judged. `handlerFirst` says whether a held RESTART is complete before the word arrives; a word that arrives while the
reset is in progress is discarded with the register (log 34). -/
def takeWord (w : Word32) (handlerFirst : Bool) (s : State) : State :=
  if s.restartHeld && !handlerFirst then handlerTakes s else arrive w (handlerTakes s)

/-- The end of a good exchange: the first steps of R155, then the word taken (R156, R157). -/
def goodExchange (w : Word32) (isReply handlerFirst : Bool) (s : State) : State :=
  let ended := s.setPp (endExchange isReply s.pp)
  if commandCode w = codeCancel then takeCancel s.pp.outcome.isSome isReply handlerFirst ended
  else takeWord w handlerFirst ended

/-- A void exchange: the word is discarded, the reply and the overrun mark kept, the sequence mark set (R155). -/
def voidExchange (p : PanelPort) : PanelPort := { p with sequenceMark := true, exchange := .none }

/-- EXCHANGE_END: SEL rises. -/
def execExchangeEnd (edges : Nat) (word : Word32) (handlerFirst : Bool) (s : State) : Answer :=
  .next
    (match s.pp.exchange with
    | .none => s
    | .voided => s.setPp (voidExchange s.pp)
    | .shifting _ isReply =>
      if edges = 32 then goodExchange word isReply handlerFirst s
      else s.setPp (voidExchange s.pp))

end Sys2Proof.Machine
end

