-- ==== Sys2Proof/Machine/Timers.lean ====
section
/-! DEFINITION. Hardware reset, the profile window's expiry, and the timers: HARDWARE_RESET,
PROFILE_WINDOW_EXPIRY, ROUND_TIMER_EXPIRY, SILENCE_TIMER_EXPIRY, ANSWER_TIMER_EXPIRY, STALL_TIMER_EXPIRY. -/

namespace Sys2Proof.Machine

/-! HARDWARE_RESET (R117). -/

/-- An exchange in progress at hardware reset is void (R162; log 18). -/
def voidedExchange : Exchange → Exchange
  | .none => .none
  | .shifting _ _ => .voided
  | .voided => .voided

/-- HARDWARE_RESET: the straps and pins as they stand at the end of reset. -/
def execHardwareReset (address : Address) (role1 role0 : Bool) (inputs : InputLevels) (s : State) : Answer :=
  .next
    (State.atReset address (strapRole role1 role0) inputs (voidedExchange s.pp.exchange) s.freeCount s.pending)

/-! PROFILE_WINDOW_EXPIRY (R118). -/

/-- PROFILE_WINDOW_EXPIRY: 2000 ms after the end of hardware reset an open window closes. -/
def execProfileWindowExpiry (s : State) : Answer :=
  .next (if s.loaderOpen then closeWindow (advanceTo profileWindowTime s) else s)

/-! The timers. -/

/-- ROUND_TIMER_EXPIRY (R37, R38, R128). -/
def execRoundTimerExpiry (s : State) : Answer :=
  match timerDue s.ae.roundTimer roundTime with
  | none => .next s
  | some due =>
    let s := restartRoundTimer (advanceTo due s)
    let s := if inRounds s.ae.join then offerPlain .mark s else s
    .next (settle (expiryNotice s))

/-- SILENCE_TIMER_EXPIRY: the timer runs in LISTENING alone (R123). -/
def execSilenceTimerExpiry (s : State) : Answer :=
  match timerDue s.ae.silenceTimer silenceTime with
  | none => .next s
  | some due => .next (if s.ae.join = .listening then performFounding (advanceTo due s) else s)

/-- ANSWER_TIMER_EXPIRY (R110). -/
def execAnswerTimerExpiry (s : State) : Answer :=
  match timerDue s.ttu.answerTimer answerTime with
  | none => .next s
  | some due => .next (settle (attemptFail (advanceTo due s)))

/-- STALL_TIMER_EXPIRY (R111). -/
def execStallTimerExpiry (s : State) : Answer :=
  match timerDue s.ttu.stallTimer stallTime with
  | none => .next s
  | some due => .next (settle (attemptFail (advanceTo due s)))

end Sys2Proof.Machine
end

