-- ==== Sys2Proof/Machine/ValveAndScan.lean ====
section
/-! DEFINITION. The valve period and the Sampler (R140, R151, R152): VALVE_PERIOD_START, SCAN_START,
SCAN_COMPLETE. -/

namespace Sys2Proof.Machine

/-! VALVE_PERIOD_START (R140). -/

/-- The duty a period that starts now is fixed at: 0 while isolating is present, else the target. -/
def State.periodDuty (s : State) : Duty := if s.isolating then 0 else s.vd.target

/-- The end of the period in progress, at which the next one starts. -/
def State.periodEnd (s : State) : Nat := s.vd.periodStart + millisecond * s.vd.period

/-- A period starts: its duty is fixed, and its length is the one set for it. -/
def startPeriod (s : State) : State :=
  s.setVd
    { s.vd with applied := s.periodDuty, period := s.vd.nextPeriod, periodStart := s.periodEnd }

/-- VALVE_PERIOD_START: periods follow one another without a gap. -/
def execValvePeriodStart (s : State) : Answer := .next (startPeriod (advanceTo s.periodEnd s))

/-- VOUT asserted: from the start of the period for duty / 1023 of its length (R140). -/
def State.vout (s : State) : Bool :=
  decide ((s.now - s.vd.periodStart) * 1023 < s.vd.applied.toNat * (millisecond * s.vd.period))

/-! SCAN_START (R151). -/

/-- A scan starts, and the next is due 25 ms after it. -/
def startScan (s : State) : State :=
  s.setSmp { s.smp with scanning := some s.smp.nextScan, nextScan := s.smp.nextScan + scanPeriod }

/-- SCAN_START: with a scan in progress none starts. -/
def execScanStart (s : State) : Answer :=
  match s.smp.scanning with
  | none => .next (startScan (advanceTo s.smp.nextScan s))
  | some _ => .next s

/-! SCAN_COMPLETE (R151, R152). -/

/-- A valid code: no broken live zero, not over range (R151). -/
def validCode (c : AnalogCode) : Bool := decide (700 ≤ c.toNat ∧ c.toNat ≤ 4000)

/-- The value of a mean code: floor((mean − 819) × span / 3276), clipped to 0 to span (R152). -/
def scaled (mean span : Nat) : Nat := min span ((mean - 819) * span / 3276)

/-- The smoothed value of a channel from its codes of the last eight scans (R152). -/
def smoothedValue (codes : List AnalogCode) (span : Nat) : Option Word16 :=
  let valid := codes.filter validCode
  if codes.length < historyLength ∨ 4 ≤ codes.length - valid.length then none
  else some (BitVec.ofNat 16 (scaled ((valid.map (·.toNat)).sum / valid.length) span))

/-- The history with a scan entered: the oldest leaves once eight are held (R152). -/
def enterScan (history : List ScanCodes) (c : ScanCodes) : List ScanCodes :=
  (if history.length < historyLength then history else history.tail) ++ [c]

/-- The smoothed values of a history (R151, R152); CH1's span is fixed at 100. -/
def smoothedChannels (m : Sampler) : Channels :=
  { ch0 := smoothedValue (m.history.map (·.ch0)) m.span0.toNat
    ch1 := smoothedValue (m.history.map (·.ch1)) 100
    ch2 := smoothedValue (m.history.map (·.ch2)) m.span2.toNat
    ch3 := smoothedValue (m.history.map (·.ch3)) m.span3.toNat }

/-- A value gone INVALID. -/
def wentInvalid (before after : Option Word16) : Bool := before.isSome && after.isNone

/-- SAMPLE-INVALID is raised: a channel the role uses went from a value to INVALID (R151, R152). -/
def sampleLost (role : Role) (before after : Channels) : Bool :=
  wentInvalid before.ch0 after.ch0 || wentInvalid before.ch2 after.ch2 ||
    (decide (role = .producer) && wentInvalid before.ch1 after.ch1) ||
    (decide (role = .store) && wentInvalid before.ch3 after.ch3)

/-- The Sampler with a scan complete. -/
def completedSampler (m : Sampler) (codes : ScanCodes) : Sampler :=
  let m := { m with history := enterScan m.history codes, scanning := none }
  { m with smoothed := smoothedChannels m }

/-- A scan completes: its codes enter the history and the smoothed values follow. -/
def completeScan (codes : ScanCodes) (s : State) : State :=
  let m := completedSampler s.smp codes
  raiseIf (sampleLost s.role s.smp.smoothed m.smoothed) .sampleInvalid (s.setSmp m)

/-- SCAN_COMPLETE: the fourth conversion of the scan in progress. -/
def execScanComplete (codes : ScanCodes) (s : State) : Answer :=
  match s.smp.scanning with
  | none => .next s
  | some since => .next (completeScan codes (advanceTo (since + scanTime) s))

end Sys2Proof.Machine
end

