-- ==== Sys2Proof/Machine/Dispatch.lean ====
section
/-! DEFINITION. Every command to its meaning, one arm per row of spec/opcode_table.json in the table's order. -/

namespace Sys2Proof.Machine

def exec (i : Instr) (s : State) : Host.Outcome State Fault Refusal :=
  match i with
  | .hardwareReset address role1 role0 inputs => Sys2Proof.Machine.execHardwareReset address role1 role0 inputs s
  | .profileWindowExpiry => Sys2Proof.Machine.execProfileWindowExpiry s
  | .frameStart slots => Sys2Proof.Machine.execFrameStart slots s
  | .collision => Sys2Proof.Machine.execCollision s
  | .frameSent => Sys2Proof.Machine.execFrameSent s
  | .frameEnd chars framingError => Sys2Proof.Machine.execFrameEnd chars framingError s
  | .roundTimerExpiry => Sys2Proof.Machine.execRoundTimerExpiry s
  | .silenceTimerExpiry => Sys2Proof.Machine.execSilenceTimerExpiry s
  | .answerTimerExpiry => Sys2Proof.Machine.execAnswerTimerExpiry s
  | .stallTimerExpiry => Sys2Proof.Machine.execStallTimerExpiry s
  | .inputEdge input level => Sys2Proof.Machine.execInputEdge input level s
  | .esdEvent => Sys2Proof.Machine.execEsdEvent s
  | .tripEvent => Sys2Proof.Machine.execTripEvent s
  | .permitEvent => Sys2Proof.Machine.execPermitEvent s
  | .auxEvent => Sys2Proof.Machine.execAuxEvent s
  | .in3DebounceExpiry => Sys2Proof.Machine.execIn3DebounceExpiry s
  | .flameProvingExpiry => Sys2Proof.Machine.execFlameProvingExpiry s
  | .valvePeriodStart => Sys2Proof.Machine.execValvePeriodStart s
  | .scanStart => Sys2Proof.Machine.execScanStart s
  | .scanComplete codes => Sys2Proof.Machine.execScanComplete codes s
  | .exchangeStart => Sys2Proof.Machine.execExchangeStart s
  | .exchangeEnd edges word handlerFirst => Sys2Proof.Machine.execExchangeEnd edges word handlerFirst s
  | .nop => Sys2Proof.Machine.execNop s
  | .status => Sys2Proof.Machine.execStatus s
  | .contract => Sys2Proof.Machine.execContract s
  | .window => Sys2Proof.Machine.execWindow s
  | .read => Sys2Proof.Machine.execRead s
  | .events => Sys2Proof.Machine.execEvents s
  | .ack => Sys2Proof.Machine.execAck s
  | .mask => Sys2Proof.Machine.execMask s
  | .demand => Sys2Proof.Machine.execDemand s
  | .push => Sys2Proof.Machine.execPush s
  | .pop => Sys2Proof.Machine.execPop s
  | .handover => Sys2Proof.Machine.execHandover s
  | .tripClear => Sys2Proof.Machine.execTripClear s
  | .release => Sys2Proof.Machine.execRelease s
  | .restart => Sys2Proof.Machine.execRestart s
  | .profileWord => Sys2Proof.Machine.execProfileWord s
  | .profileDone => Sys2Proof.Machine.execProfileDone s
  | .cancel => Sys2Proof.Machine.execCancel s
  | .illegalCommandCode => Sys2Proof.Machine.execIllegalCommandCode s
  | .startBitDetected => Sys2Proof.Machine.execStartBitDetected s

end Sys2Proof.Machine
end

