-- ==== Sys2Proof/Machine/Step.lean ====
section
/-! DEFINITION. One step: the command at the front of the queue, or, on an empty queue, one tick. -/

namespace Sys2Proof.Machine

/-- On an empty queue the clock goes on by one microsecond and nothing else happens (DESIGN CHOICE, log 2). -/
def tick (s : State) : State := s.setNow (s.now + 1)

/-- The command at the front of the queue acts on the node with the queue's rest. -/
def step (s : State) : Host.Outcome State Fault Refusal :=
  match s.pending with
  | [] => .next (tick s)
  | c :: rest => exec c (s.setPending rest)

/-- The node with the command that a word spells put at the front of its queue; the table gives no bits, so no
word spells one. -/
def State.withFetchWord (s : State) (nbits w : Nat) : State :=
  match decodeTableWord nbits w with
  | none => s
  | some c => s.setPending (c :: s.pending)

end Sys2Proof.Machine
end

