-- ==== Sys2Proof/Safety.lean ====
section
/-! DEFINITION. The laws the spec sets over every state of the node, and the terms in which the statements speak
of a panel command, a frame received, and what an operation leaves alone. -/

namespace Sys2Proof.Safety

open Sys2Proof.Machine

/-! Laws of every state. -/

/-- No store holds more than its capacity: transmit queue 8 (R29), Round Journal 40 (R43), Station Table 16 (R1),
Claim Queue 12 (R52), fewer than three failed attempts (R113), history 8 (R152), lost counts 15 (R144), profile image
20 words (R118). -/
def withinCapacity (s : State) : Prop :=
  s.lc.queue.length ≤ 8 ∧ s.ae.journal.length ≤ 40 ∧ s.ae.committed.table.length = 16 ∧
    s.ae.committed.queue.length ≤ 12 ∧ s.ttu.attempts < 3 ∧ s.smp.history.length ≤ 8 ∧
    s.eiu.esd.lost ≤ 15 ∧ s.eiu.trip.lost ≤ 15 ∧ s.eiu.permit.lost ≤ 15 ∧ s.eiu.aux.lost ≤ 15 ∧
    s.pp.image.length = 20 ∧ s.pp.written.length = 20

/-- The kinds of the device entries of a stack. -/
def deviceKinds (stack : List OverrideEntry) : List OverrideKind :=
  (stack.map (·.kind)).filter fun k => !panelKind k

/-- The Override Stack's law: never more than five entries above BASE, never two device entries of the same kind
(R130), no VOID entry on top (R135). -/
def stackLaw (stack : List OverrideEntry) : Prop :=
  stack.length ≤ 5 ∧ (deviceKinds stack).Nodup ∧ ∀ e ∈ stack.head?, e.void = false

/-- ANNOUNCE and ASK frames: all that a LISTENING node may send (R33). -/
def listeningFrame : FrameBody → Bool
  | .announce _ => true
  | .ask _ _ => true
  | .status _ | .mark | .claim _ | .yield _ | .duty _ | .trip | .clear _ | .blockHeader _ _ _ _ _ _
  | .blockData _ _ _ _ => false

/-- The law of R33 and R129: a PROFILE or MUTED node has no frame to put on the link, a LISTENING node none but
ANNOUNCE and ASK. A frame on the line is the head of the queue (R25). -/
def linkLaw (s : State) : Prop :=
  (s.lc.onLine.isSome = true → s.lc.queue ≠ []) ∧
    match s.ae.join with
    | .profile | .muted => s.lc.queue = []
    | .listening => ∀ q ∈ s.lc.queue, listeningFrame q.body = true
    | .joined | .diverged => True

/-- At most one MARK in the queue, and at most one STATUS that waits (R30). -/
def oneEach (lc : LinkController) : Prop :=
  lc.queue.countP (ofClass .mark) ≤ 1 ∧ (waitingFrames lc).countP (ofClass .status) ≤ 1

/-- An attempt in progress at the TTU. -/
def asking : TransferPhase → Bool
  | .asked _ _ => true
  | .loading _ _ _ _ _ _ => true
  | .idle | .serving _ _ _ _ _ _ => false

/-- A JOINED or DIVERGED node, and one whose TTU has an attempt in progress, knows its round (R36, R39, R107); no
attempt is in progress in PROFILE or MUTED (R107, R116). -/
def roundLaw (s : State) : Prop :=
  ((s.ae.join = .joined ∨ s.ae.join = .diverged ∨ asking s.ttu.phase = true) → s.ae.round ≠ 0) ∧
    (asking s.ttu.phase = true → s.ae.join ≠ .profile ∧ s.ae.join ≠ .muted)

/-- A timer that runs. -/
def runs : Timer → Bool
  | .running _ => true
  | .stopped | .held => false

/-- The round timer is stopped in PROFILE and runs in every other join state (R37); the silence timer is kept in
LISTENING alone (R123). -/
def timerLaw (s : State) : Prop :=
  (s.ae.join = .profile → s.ae.roundTimer = .stopped) ∧
    (s.ae.join ≠ .profile → runs s.ae.roundTimer = true) ∧
    (s.ae.join = .listening ↔ s.ae.silenceTimer ≠ .stopped)

/-- While DIVERGED the node holds a cap, and the base setpoint it handed to the Valve Driver is not above it
(R105). -/
def capLaw (s : State) : Prop :=
  s.ae.join = .diverged → ∃ c, s.ae.cap = some c ∧ s.vd.baseSetpoint.toNat ≤ c.toNat

/-- A tier draw list: one to five draws, strictly ascending, contiguous from tier 1, up to 4095 (R119). -/
def tierListLaw : List Nat → Bool
  | d :: e :: rest =>
    decide (1 ≤ d ∧ d ≤ 4095) &&
      (if e = 0 then rest.all (fun t => decide (t = 0)) else decide (d < e) && tierListLaw (e :: rest))
  | [d] => decide (1 ≤ d ∧ d ≤ 4095)
  | [] => false

/-- The law of a profile image: a tier draw list as above and bands 0 ≤ L < F < FH ≤ 100 with F ≥ 10 (R119). -/
def profileLaw (image : List Word16) : Prop :=
  image.length = 20 ∧ tierListLaw (imageTiers image) = true ∧
    (highByte (imageWord image 13)).toNat < (lowByte (imageWord image 13)).toNat ∧
    10 ≤ (lowByte (imageWord image 13)).toNat ∧
    (lowByte (imageWord image 13)).toNat < (highByte (imageWord image 14)).toNat ∧
    (highByte (imageWord image 14)).toNat ≤ 100

/-- R62: a granted tier is no greater than the requested tier, and that no greater than the tier list. -/
def grantLaw (queue : List QueueEntry) : Prop :=
  ∀ q ∈ queue, q.granted ≤ q.requested ∧ q.requested ≤ q.draws.length

/-- R93: the lead flare duty is NONE or names a LIVE FLARE; R88: an open offer has a holder. -/
def dutyLaw (c : Committed) : Prop :=
  (∀ a ∈ c.duty, (entryOf c.table a).presence = .live ∧ (entryOf c.table a).role = some .flare) ∧
    (c.offer = true → c.duty ≠ none)

/-- The laws of every state, together. -/
def lawful (s : State) : Prop :=
  withinCapacity s ∧ stackLaw s.ovs.stack ∧ linkLaw s ∧ oneEach s.lc ∧ roundLaw s ∧ timerLaw s ∧ capLaw s

/-! Terms of the statements. -/

/-- The handler can take the held command word w (R156). -/
def Held (s : State) (w : Word32) : Prop := s.pp.holding = some w ∧ s.pp.reply = none ∧ s.pp.outcome = none

/-- The node after the handler took the held command and staged a reply, and nothing else. -/
def answered (s : State) (reply : Word32) : State := s.setPp { s.pp with holding := none, reply := some reply }

/-- A good frame ends on the line that is no frame of the node's own. -/
def peerFrameEnds (s : State) (chars : List Byte) (framingError : Bool) (f : GoodFrame) : Prop :=
  s.lc.onLine = none ∧ ownPart s.lc.line ≠ .sent chars ∧ judgeFrame chars framingError = some f

/-- The node's own frame l, q the head of its queue, is on the line since its first start bit. -/
def sendingSince (s : State) (l : LineFrame) (q : QueuedFrame) (rest : List QueuedFrame) (first : Nat) : Prop :=
  s.lc.onLine = some l ∧ s.lc.queue = q :: rest ∧ ∃ last own, s.lc.line = .busy first last own

/-- The node at the moment its own frame counts as sent, before the frame is delivered (R26): the clock at the end of
the last character, the frame out of the queue and not yet ended on the line (R17). -/
def ownFrameOff (s : State) (l : LineFrame) (rest : List QueuedFrame) (first : Nat) : State :=
  { s with
    now := max s.now (first + 160 * l.chars.length)
    lc := { s.lc with queue := rest, onLine := none, line := .busy first first (.sent l.chars) } }

/-- The node at the end of a frame of so many characters, before the frame is judged: the line quiet since the last
character, the clock 0.32 ms after it (R17), the silence timer of a LISTENING node restarted (R123). -/
def frameEnded (s : State) (length : Nat) : State :=
  let quiet := lastCharacterEnd s.lc.line s.now length
  let now := max s.now (quiet + 320)
  { s with
    now
    lc := { s.lc with line := .quiet quiet none }
    ae := { s.ae with silenceTimer := if s.ae.join = .listening then .running now else s.ae.silenceTimer } }

/-- The node with a good frame of a sender counted and the last-sender view set to it (R20, R23). -/
def heardGood (s : State) (sender : Address) : State :=
  { s with
    lc :=
      { s.lc with
        lastSender := sender
        counters := { s.lc.counters with framesGood := countUp s.lc.counters.framesGood } } }

/-- No address clash arises from a frame of this sender: another address, a frame that the node has a part in, or a
node that watches for none (R22). -/
def noClash (s : State) (sender : Address) : Prop :=
  sender ≠ s.address ∨ ownPart s.lc.line ≠ .nothing ∨ s.ae.join = .profile ∨ s.lc.muted = true

/-- The command i delivers a MARK of a round to the AE of the node s: a peer's MARK at its end, or the node's own as it
counts as sent (R39). h is the node on which the AE then acts. -/
def takesMark (s h : State) (i : Instr) (round : Word16) : Prop :=
  (∃ chars framingError f, i = .frameEnd chars framingError ∧ peerFrameEnds s chars framingError f ∧
    noClash s f.sender ∧ f.body = .mark ∧ f.round = round ∧ h = heardGood (frameEnded s chars.length) f.sender) ∨
  ∃ l q rest first, i = .frameSent ∧ sendingSince s l q rest first ∧ q.body = .mark ∧ l.round = round ∧
    h = ownFrameOff s l rest first

/-- A MARK of the round `next` closes the open round of a JOINED or DIVERGED node: another round than the open one, at a
node that knows its own (R39). -/
def closesRound (s h : State) (i : Instr) (next : Word16) : Prop :=
  takesMark s h i next ∧ (s.ae.join = .joined ∨ s.ae.join = .diverged) ∧ s.ae.round ≠ 0 ∧ next ≠ 0 ∧
    next ≠ s.ae.round ∧ s.ttu.attempts < 3

/-- No failure of an attempt that a close can bring is the third (R113): the one in progress, and an ASK refused or lost
at the close. -/
def noThirdFailure (s : State) : Prop := s.ttu.attempts < 2 ∧ (asking s.ttu.phase = true → s.ttu.attempts < 1)

/-- The duty holder's OFFER at a flare that may take the duty (R96). -/
def mayAnswer (s : State) (f : GoodFrame) : Prop :=
  f.body = .duty .offer ∧ f.sender ≠ s.address ∧ s.ae.committed.duty = some f.sender ∧
    (s.ae.join = .joined ∨ s.ae.join = .diverged) ∧ s.role = .flare ∧ (s.profileWord 0).getLsbD 2 = true ∧
    eligible s.ownEntry = true ∧ (∀ q ∈ s.lc.queue, q.body ≠ .duty .take) ∧ .duty s.address .take ∉ s.ae.journal

/-- The node with one more record at the end of its journal. -/
def withRecord (s : State) (r : Record) : State := { s with ae := { s.ae with journal := s.ae.journal ++ [r] } }

/-- The node with its waiting frames replaced, a frame in progress kept in front (R25). -/
def requeued (s : State) (waiting : List QueuedFrame) : State :=
  { s with lc := { s.lc with queue := frontFrames s.lc ++ waiting } }

/-- The node with an event flag raised. -/
def raised (s : State) (e : EventFlag) : State := { s with pp := { s.pp with flags := withFlag s.pp.flags e } }

/-- A queued frame followed no longer where its kind is among those. -/
def unfollowed (kind : FrameBody → Bool) (q : QueuedFrame) : QueuedFrame :=
  if kind q.body = true then { q with tracked := false } else q

/-- The node whose attempt has failed (R113): IDLE, buffer clear, timers stopped, the count raised, TRANSFER-FAILED; its
ASK stays in the queue and is followed no longer. -/
def attemptFailed (s : State) : State :=
  raised
    { s with
      lc := { s.lc with queue := s.lc.queue.map (unfollowed isAsk) }
      ttu :=
        { phase := .idle, attempts := s.ttu.attempts + 1, buffer := [], answerTimer := .stopped,
          stallTimer := .stopped } }
    .transferFailed

/-- The node after REJOIN (R115): the committed state and what goes with it cleared, LISTENING with both timers
restarted, the TTU idle, the queue emptied and a frame on the line cut off, REJOIN-HOLD pushed, the resting setpoint
of R85 handed on, LEAD released, JOIN-CHANGE raised. -/
def rejoined (u : State) : State :=
  let pushed := devicePush .rejoinHold
    { u with
      lc := { u.lc with queue := [], onLine := none }
      ttu := { phase := .idle, attempts := 0, buffer := [], answerTimer := .stopped, stallTimer := .stopped }
      ae :=
        { u.ae with
          join := .listening, round := 0, roundTimer := .running u.now
          silenceTimer := if lineBusy u.lc.line = true then .held else .running u.now
          journal := [], committed := clearedState, digest := 0, ownBurn := 0, cap := none, ownLive := false
          announced := false, demand := { stage := .idle, outcome := .verdict .none }, hold := [] }
      vd :=
        { u.vd with
          baseSetpoint := if u.role = .producer ∨ u.role = .store then u.profileWord 2 else 0, lead := false } }
  raised (withStack pushed pushed.ovs.stack) .joinChange

/-- The node at the end of a command: REJOIN where the third attempt has failed in it (R113; log 14). -/
def afterFailures (u : State) : State := if 3 ≤ u.ttu.attempts then rejoined u else u

/-- The node whose SERVING has ended before its last block was sent (R109): IDLE, the block that waits withdrawn, one in
progress followed no longer. -/
def servingOver (u : State) : State :=
  { u with
    ttu := { u.ttu with phase := .idle }
    lc :=
      { u.lc with
        queue :=
          (frontFrames u.lc ++ (waitingFrames u.lc).filter fun q => !(q.tracked && isBlock q.body)).map
            (unfollowed isBlock) } }

/-- The first two steps of the TTU at a close that returns no node to JOINED (R114): an attempt in progress fails,
SERVING ends. -/
def noticed (u : State) : State :=
  match u.ttu.phase with
  | .idle => u
  | .asked _ _ | .loading _ _ _ _ _ _ => attemptFailed u
  | .serving _ _ _ _ _ _ => servingOver u

/-- The node with one more transmit discard (R35). -/
def discarded (s : State) : State :=
  { s with lc := { s.lc with counters := { s.lc.counters with discards := countUp s.lc.counters.discards } } }

/-- The node whose LC refuses a frame at a full queue (R31). -/
def refusedFull (s : State) (body : FrameBody) : State :=
  match body with
  | .claim _ | .yield _ | .duty _ => raised (discarded s) .notTaken
  | _ => discarded s

/-- The node stopped in its frame by a collision, its queue as given (R27): the collision counted, L at 15. -/
def lineStopped (s : State) (queue : List QueuedFrame) : State :=
  { s with
    lc :=
      { s.lc with
        queue
        onLine := none
        lastSender := 15
        counters := { s.lc.counters with collisions := countUp s.lc.counters.collisions } } }

/-- A good frame f is a BLOCK of the attempt in progress that fails it. In ASKED: a BLOCK 0 with a refusal, another
round or a block count outside 12 to 23, and a data block (R110). In LOADING: a BLOCK 0, a data block of another
index, round or length than due (R111), and a last one with which the snapshot fails its check (R112). -/
def failingBlock (s : State) (f : GoodFrame) : Prop :=
  (∃ attempt, s.ttu.phase = .asked f.sender attempt ∧
    ((∃ status count round digest, f.body = .blockHeader s.address (attempt % 16) status count round digest ∧
        ¬ (status = .clear ∧ round = s.ae.round ∧ 12 ≤ count ∧ count ≤ 23)) ∨
      ∃ index bytes, f.body = .blockData s.address (attempt % 16) index bytes)) ∨
  ∃ attempt round digest count expected, s.ttu.phase = .loading f.sender attempt round digest count expected ∧
    ((∃ status n r d, f.body = .blockHeader s.address (attempt % 16) status n r d) ∨
      ∃ index bytes, f.body = .blockData s.address (attempt % 16) index bytes ∧
        let due := index = expected ∧ f.round = round ∧ 1 ≤ bytes.length ∧ bytes.length ≤ 22 ∧
          (index < count → bytes.length = 22)
        let body := s.ttu.buffer ++ bytes
        let q := (byteAt body 261).toNat
        ¬ (due ∧ (index = count → q ≤ 12 ∧ body.length = 262 + 19 * q ∧ crc16 body = digest)))

/-- The command i fails the attempt in progress between closes (R107, R110 to R112): the answer timer or the stall timer
expires, a failing BLOCK ends, or the ASK collides for the eighth time. u is the node at which the failure falls. -/
def failsAttempt (s u : State) (i : Instr) : Prop :=
  (∃ since, i = .answerTimerExpiry ∧ s.ttu.answerTimer = .running since ∧
    u = { s with now := max s.now (since + 100000) }) ∨
  (∃ since, i = .stallTimerExpiry ∧ s.ttu.stallTimer = .running since ∧
    u = { s with now := max s.now (since + 60000) }) ∨
  (∃ chars framingError f, i = .frameEnd chars framingError ∧ peerFrameEnds s chars framingError f ∧
    noClash s f.sender ∧ failingBlock s f ∧ u = heardGood (frameEnded s chars.length) f.sender) ∨
  ∃ l q rest server attempt, i = .collision ∧ s.lc.onLine = some l ∧ s.lc.queue = q :: rest ∧ q.collisions = 7 ∧
    q.tracked = true ∧ isAsk q.body = true ∧ s.ttu.phase = .asked server attempt ∧ u = discarded (lineStopped s rest)

/-- The LC of a JOINED or DIVERGED node, which admits every kind of frame (R33), has room. -/
def roomToSend (s : State) : Prop :=
  (s.ae.join = .joined ∨ s.ae.join = .diverged) ∧ s.lc.muted = false ∧ s.lc.queue.length < 8

/-- A frame placed ahead of every waiting frame but TRIP and CLEAR (R29). -/
def behindHead (q : QueuedFrame) (waiting : List QueuedFrame) : List QueuedFrame :=
  waiting.filter (ofClass .head) ++ q :: waiting.filter fun x => !ofClass .head x

/-- The node past its profile window (R121): the period, spans, levels and last demanded tier from the profile, the base
setpoint of R85, LISTENING with both timers running, JOIN-CHANGE; its target follows (R139). -/
def windowClosed (u : State) : State :=
  let setpoint : Word16 := if u.role = .producer ∨ u.role = .store then u.profileWord 2 else 0
  let v := (withStack { u with vd := { u.vd with baseSetpoint := setpoint } } u.ovs.stack).vd
  raised
    { u with
      pp := { u.pp with windowOpen := false, levels := u.profileWord 17 }
      vd := { v with nextPeriod := (u.profileWord 1).toNat }
      smp := { u.smp with span0 := u.profileWord 3, span2 := u.profileWord 4, span3 := u.profileWord 5 }
      ae :=
        { u.ae with
          join := .listening
          lastTier := min (u.profileWord 18).toNat (imageDraws u.pp.image).length
          roundTimer := .running u.now
          silenceTimer := if lineBusy u.lc.line = true then .held else .running u.now } }
    .joinChange

/-- A tier draw of a profile word against the draws held (R119): k counts the tiers from 0. -/
def tierFits (image : List Word16) (k v : Nat) : Prop :=
  let held := fun j => (imageWord image (6 + j)).toNat
  if k = 0 then 1 ≤ v ∧ v ≤ 4095 ∧ ∀ j < 5, 0 < j → held j = 0 ∨ v < held j
  else
    (v = 0 ∧ ∀ j < 5, k < j → held j = 0) ∨
      (1 ≤ v ∧ v ≤ 4095 ∧ 0 < held (k - 1) ∧ held (k - 1) < v ∧ ∀ j < 5, k < j → held j = 0 ∨ v < held j)

/-- The check of a profile word, index by index (R119, laid out as R168): L and FH stand in the high byte of their
words. -/
def wordFits (image : List Word16) (index : Nat) (word : Word16) : Prop :=
  let v := word.toNat
  let f13 := (imageWord image 13).toNat % 256
  let fh14 := (imageWord image 14).toNat / 256
  (index = 0 ∧ v < 8) ∨ (index = 1 ∧ 10 ≤ v ∧ v ≤ 100) ∨ (2 ≤ index ∧ index ≤ 5 ∧ 1 ≤ v) ∨
    (6 ≤ index ∧ index ≤ 10 ∧ tierFits image (index - 6) v) ∨ (index = 11 ∧ v ≤ 100) ∨
    (index = 12 ∨ index = 15 ∨ index = 16 ∨ index = 17) ∨
    (index = 13 ∧ v / 256 < v % 256 ∧ 10 ≤ v % 256 ∧ v % 256 ≤ 100 ∧ v % 256 < fh14) ∨
    (index = 14 ∧ v / 256 ≤ 100 ∧ f13 < v / 256) ∨ (index = 18 ∧ v ≤ 5) ∨ (index = 19 ∧ v ≤ 1023)

/-- The contract check with a requested tier above 0 (R53). -/
def contractFits (b : ClaimBody) : Prop :=
  (1 ≤ b.draws.length ∧ b.draws.length ≤ 5) ∧ (∀ d ∈ b.draws, 1 ≤ d.toNat ∧ d.toNat ≤ 4095) ∧
    b.draws.Pairwise (· < ·) ∧ b.minMethane ≤ 100 ∧ 1 ≤ b.tier ∧ b.tier ≤ 5 ∧ b.tier ≤ b.draws.length

/-- A verdict written to a station in the claim stage (R63). -/
def verdictWritten (p : ClaimPass) (a : Address) (v : Verdict) : ClaimPass :=
  { p with
    table := p.table.set a.val { entryOf p.table a with verdict := v }
    written := p.written ||| bitWord a.val }

/-- One entry of the grant walk (R77): the entry after it at the tail of the queue walked so far, the running total, and
the verdict written where one is (R80). -/
def walkStep (methane gas : Nat) (marked : Word16) (w : Nat × ClaimPass) (q : QueueEntry) : Nat × ClaimPass :=
  let step := walkEntry methane gas marked w.1 q
  let placed := { w.2 with queue := w.2.queue ++ [step.1] }
  (step.2.1,
    match step.2.2 with
    | none => placed
    | some v => verdictWritten placed q.claimant v)

/-- A queue entry at a new requested tier, its grant clipped to it (R59, R60). -/
def atTier (q : QueueEntry) (tier : Nat) : QueueEntry :=
  { q with
    requested := tier
    granted := min q.granted tier
    shortfall := if tier < q.granted then false else q.shortfall }

/-- A new device entry as it is placed on a stack (R132, R137). -/
def deviceEntry (s : State) (kind : OverrideKind) (stack : List OverrideEntry) : OverrideEntry :=
  { kind, value := 0, round := s.ae.round, void := false, expiries := 0
    captured := if kind = .rejoinHold ∧ isolatingPresent stack = false then s.vd.applied else 0 }

/-- The addresses of the LIVE stations of a role, ascending. -/
def liveStations (table : List Entry) (role : Role) : List Address :=
  addresses.filter fun a => decide ((entryOf table a).presence = .live ∧ (entryOf table a).role = some role)

/-- A committed figure of a station, by its slot (R8). -/
def tableFigure (table : List Entry) (a : Address) (slot : Nat) : Nat :=
  ((entryOf table a).figures.getD slot { value := 0, age := 3 }).value.toNat

/-- The stores taken into account: LIVE, with a capacity above 0 (R71). -/
def storesCounted (table : List Entry) : List Address :=
  (liveStations table .store).filter fun a => decide (0 < tableFigure table a 1)

/-- The fill of the holder in percent (R71). -/
def holderFill (table : List Entry) : Nat :=
  let stores := storesCounted table
  min 100 ((stores.map fun a => tableFigure table a 0).sum * 100 / (stores.map fun a => tableFigure table a 1).sum)

/-- The entry that a close starts from for a station: R4's where the station announced, else the committed one. -/
def openedEntry (c : Committed) (journal : List Record) (a : Address) : Entry :=
  match lastAnnounced journal a with
  | some role => announcedEntry role
  | none => entryOf c.table a

/-- A counted STATUS exists for a station (R3). -/
def heardIn (journal : List Record) (a : Address) (e : Entry) : Prop :=
  ∃ b ∈ statusesOf (afterAnnounce journal) a, e.presence = .absent ∨ e.presence = .lost ∨ e.role = some b.role

/-- The rows by which the handler takes a held command, with the command's code (R166). -/
def panelRows : List (Instr × Nat) :=
  [(.nop, 0x00), (.status, 0x01), (.contract, 0x02), (.window, 0x03), (.read, 0x04), (.events, 0x05),
    (.ack, 0x06), (.mask, 0x07)] ++
  [(.demand, 0x08), (.push, 0x09), (.pop, 0x0A), (.handover, 0x0B), (.tripClear, 0x0C), (.release, 0x0D),
    (.restart, 0x0E), (.profileWord, 0x0F), (.profileDone, 0x10)]

/-- What the sender of a frame can put in it: the fields in their ranges (R163, R164), so that the characters carry
all of it. -/
def sendable : FrameBody → Prop
  | .status b =>
    b.governing ≠ .none ∧ b.figures.length = (slotWidths b.role).length ∧
      ∀ p ∈ (slotWidths b.role).zip b.figures, p.1 = 1 → ∀ v ∈ p.2, v.toNat < 256
  | .mark => True
  | .claim b => b.tier < 256 ∧ b.minMethane < 256 ∧ 1 ≤ b.draws.length ∧ b.draws.length ≤ 5
  | .yield tier => tier < 256
  | .duty _ => True
  | .announce _ => True
  | .trip => True
  | .clear _ => True
  | .ask _ attempt => attempt < 256
  | .blockHeader _ attempt _ count _ _ => attempt < 16 ∧ count < 256
  | .blockData _ attempt index bytes =>
    attempt < 16 ∧ 1 ≤ index ∧ index ≤ 23 ∧ 1 ≤ bytes.length ∧ bytes.length ≤ 22

/-- The payload p suits a frame of the kind k, by the permitted lengths of R163 and the field checks of R164. -/
def payloadFits (k : Nat) (p : List Byte) : Prop :=
  let b := fun i => (byteAt p i).toNat
  (k = 0x1 ∧ (b 0, p.length) ∈ [(1, 9), (2, 16), (3, 8), (4, 10)] ∧ 1 ≤ b 3 ∧ b 3 ≤ 10) ∨
    (k = 0x3 ∧ p.length ∈ [4, 6, 8, 10, 12]) ∨ (k = 0x4 ∧ p.length = 1) ∨
    (k = 0x5 ∧ p.length = 1 ∧ 1 ≤ b 0 ∧ b 0 ≤ 3) ∨ (k = 0x6 ∧ p.length = 1 ∧ 1 ≤ b 0 ∧ b 0 ≤ 4) ∨
    ((k = 0x2 ∨ k = 0x7) ∧ p.length = 0) ∨ (k = 0x8 ∧ p.length = 1 ∧ b 0 ≤ 15) ∨
    (k = 0x9 ∧ p.length = 2 ∧ b 0 ≤ 15) ∨
    (k = 0xA ∧ (b 1 = 0 ∧ p.length = 8 ∧ b 2 ≤ 2 ∨ 1 ≤ b 1 ∧ b 1 ≤ 23 ∧ 3 ≤ p.length ∧ p.length ≤ 24))

/-- Characters that are a good frame (R20): no framing error, the length that byte 3 gives, the CRC, and a payload that
suits the kind. -/
def goodChars (chars : List Byte) (framingError : Bool) : Prop :=
  let n := chars.length
  framingError = false ∧ 6 ≤ n ∧ n ≤ 30 ∧ (byteAt chars 3).toNat + 6 = n ∧
    crc16 (chars.take (n - 2)) = wordAt chars (n - 2) ∧
    payloadFits ((byteAt chars 0).toNat / 16) ((chars.drop 4).take (n - 6))

/-- An override entry that isolates: not VOID, of the isolating class, a REJOIN-HOLD once it has converted (R131). -/
def isolatesNow (e : OverrideEntry) : Prop :=
  e.void = false ∧ (e.kind ∈ [OverrideKind.startHold, .esdIsolate, .tripIsolate, .plantTripIsolate, .isolate] ∨
    (e.kind = .rejoinHold ∧ 2 ≤ e.expiries))

/-- An ANNOUNCE frame in the queue. -/
def announces (q : QueuedFrame) : Bool :=
  match q.body with
  | .announce _ => true
  | .status _ | .mark | .claim _ | .yield _ | .duty _ | .trip | .clear _ | .ask _ _ | .blockHeader _ _ _ _ _ _
  | .blockData _ _ _ _ => false

/-- The CLAIM frame that the pending demand follows. -/
def demandsClaim (q : QueuedFrame) : Bool := q.tracked && isClaim q.body

/-- A station record's entry in the range of its fields, the slots its role does not hold cleared, an ABSENT entry
as R16 leaves it (R1, R8, R165). -/
def entryInRange (e : Entry) : Prop :=
  if e.presence = .absent then e = clearedEntry
  else
    e.heard < 2 ∧ e.miss < 4 ∧ e.figures.length = 8 ∧
      (∀ p ∈ (roleSlots e.role).zip e.figures, (p.1 = 1 → p.2.value.toNat < 256) ∧ p.2.age < 4) ∧
      e.figures.drop (roleSlots e.role).length = List.replicate (8 - (roleSlots e.role).length) clearedFigure

/-- A queue entry in the range of its fields (R52, R165). -/
def queueEntryInRange (q : QueueEntry) : Prop :=
  q.requested < 256 ∧ q.draws.length ≤ 5 ∧ q.minMethane < 256 ∧ q.granted < 256

end Sys2Proof.Safety
end

