-- ==== Sys2Proof/Certificates/Slice0/Obligations.lean ====
section
/-! DEFINITION. The statements about the node for the provers. "log n" is notes/assumptions/n.md. -/

open Sys2Proof Sys2Proof.Machine Sys2Proof.Safety

/-! The step and the laws of every state. -/

/-- A step runs the command at the front of the queue on the node with the queue's rest; on an empty queue the clock
goes on by one microsecond (the model's choice, log 2). -/
def Obligations.StepRunsFrontCommand : Prop :=
  (∀ (c : Instr) (s : State) (rest : List Instr),
    step { s with pending := c :: rest } = exec c { s with pending := rest }) ∧
  ∀ s : State, s.pending = [] → step s = .next { s with now := s.now + 1 }

/-- The laws hold at State.reset, and at the end of every hardware reset. -/
def Obligations.LawsHoldAtReset : Prop :=
  lawful State.reset ∧ profileLaw State.reset.pp.image ∧
  ∀ (address : Address) (role1 role0 : Bool) (inputs : InputLevels) (s : State),
    ∃ t, exec (.hardwareReset address role1 role0 inputs) s = .next t ∧ lawful t ∧ profileLaw t.pp.image

/-- Every step that answers a next state keeps the laws: capacities, the Override Stack's law, what a node may put on
the link, at most one MARK queued and one STATUS waiting (log 28 for a MARK on the line), round numbers, timers, the
divergence cap. -/
def Obligations.StepKeepsLaws : Prop :=
  ∀ s t : State, lawful s → step s = .next t → lawful t

/-- Every step keeps the law of the profile image (R119). -/
def Obligations.StepKeepsProfileLaw : Prop :=
  ∀ s t : State, profileLaw s.pp.image → step s = .next t → profileLaw t.pp.image

/-! Hardware reset. -/

/-- The state that hardware reset leaves, as R117 lists it with the values of R16, R34, R36, R37, R48, R68, R87, R98,
R116, R118, R120, R142, R150, R154 and R162. The last demanded tier and the own placed burn (log 20) and the queue of
commands (log 25) have no value in the spec: those are the model's, and so is the count of free values, which is kept
(log 10). -/
def Obligations.HardwareResetLeaves : Prop :=
  ∀ (address : Address) (role1 role0 : Bool) (pins : InputLevels) (s : State),
    let role : Role := match role1, role0 with
      | false, false => .producer
      | false, true => .store
      | true, false => .consumer
      | true, true => .flare
    let cleared : Entry :=
      { presence := .absent, role := none, heard := 0, miss := 0, verdict := .none,
        figures := List.replicate 8 { value := 0, age := 3 }, governing := .none, flame := false, dutyAllowed := false }
    let noChannels : Channels := { ch0 := none, ch1 := none, ch2 := none, ch3 := none }
    let rested := fun (pin : Bool) => ({ pin, reference := pin, latch := false, lost := 0 } : EventInput)
    exec (.hardwareReset address role1 role0 pins) s = .next
      { address
        role
        lc :=
          { queue := [], onLine := none, lastSender := 15, muted := false
            counters :=
              { framesGood := 0, crcErrors := 0, collisions := 0, discards := 0, duplicateMarks := 0, roundSlips := 0 }
            line := .quiet 0 none }
        ae :=
          { join := .profile, round := 0, roundTimer := .stopped, silenceTimer := .stopped, journal := []
            committed :=
              { table := List.replicate 16 cleared, queue := [], duty := none, offer := false, trips := 0,
                flaring := false, unburnt := 0 }
            digest := 0, ownBurn := 0, cap := none, ownLive := false, announced := false, plantTrip := false
            demand := { stage := .idle, outcome := .verdict .none }, lastTier := 0, hold := [], latched := noChannels }
        ttu := { phase := .idle, attempts := 0, buffer := [], answerTimer := .stopped, stallTimer := .stopped }
        ovs :=
          { stack :=
              [{ kind := .startHold, value := 0, captured := 0, round := 0, void := false, expiries := 0 }] }
        vd :=
          { baseSetpoint := 0, target := 0, applied := 0, lead := false, period := 20, nextPeriod := 20,
            periodStart := 0 }
        eiu :=
          { esd := rested pins.esd, trip := rested pins.trip, permit := rested pins.permit
            aux := { rested pins.aux with reference := pins.aux && decide (role ≠ .flare) }
            wait := if role = .flare ∧ pins.aux = true then .running 0 else .stopped
            flame := false, tripOutstanding := false }
        smp :=
          { history := [], smoothed := noChannels, scanning := none, nextScan := 0, span0 := 1000, span2 := 100,
            span3 := 1000 }
        pp :=
          { image :=
              [if role = .flare then 4 else 0, 20, 1000, 1000, 100, 1000, 100, 0, 0, 0, 0, 45, 1000, 30 * 256 + 70,
                90 * 256 + 20, 500, 500, 0x0698, 0, 1023]
            written := List.replicate 20 false, windowOpen := true, windowIndex := 0, part := 0, flags := 0
            masks := 0xFFFF, levels := 0x0698, holding := none, reply := none, outcome := none, sequenceMark := false
            overrunMark := false
            exchange := if s.pp.exchange = .none then .none else .voided }
        now := 0
        freeCount := s.freeCount
        pending := s.pending }

/-! Formats. -/

/-- R20, R163, R164: every frame a node can send is judged good from its characters, with its sender, header round and
contents unchanged; which characters are good; and what a good frame carries. A good frame of another kind than STATUS is
the frame a node would send with those contents, character by character; in a STATUS the bits without a meaning and the
value of an absent figure are free. -/
def Obligations.FrameRoundTrip : Prop :=
  (∀ (sender : Address) (round : Word16) (body : FrameBody), sendable body →
    judgeFrame (frameChars sender round body) false = some { sender, round, body }) ∧
  ∀ (chars : List Byte) (framingError : Bool),
    (judgeFrame chars framingError ≠ none ↔ goodChars chars framingError) ∧
    ∀ f, judgeFrame chars framingError = some f →
      f.sender.val = (byteAt chars 0).toNat % 16 ∧ f.round = wordAt chars 1 ∧
      kindCode f.body = (byteAt chars 0).toNat / 16 ∧
      ((∀ b, f.body ≠ .status b) → frameChars f.sender f.round f.body = chars) ∧
      ∀ b, f.body = .status b →
        roleCode (some b.role) = (byteAt chars 4).toNat ∧ b.digest = wordAt chars 5 ∧
        governingCode b.governing = (byteAt chars 7).toNat ∧ b.flame = (byteAt chars 8).getLsbD 0 ∧
        b.dutyAllowed = (byteAt chars 8).getLsbD 1 ∧ b.figures.length = (slotWidths b.role).length ∧
        ∀ k < b.figures.length,
          let place := 10 + ((slotWidths b.role).take k).sum
          b.figures.getD k none =
            if (byteAt chars 9).getLsbD k = true then
              some (if (slotWidths b.role).getD k 0 = 1 then (byteAt chars place).setWidth 16 else wordAt chars place)
            else none

/-- R99, R165: a station record and a queue record of the snapshot body give back the entries they were written from, and
the body of a committed state, the misc record in it, the state. The unburnt figure, which is not in the body, is 0 until
the load computes it afresh (LastBlockLoads). -/
def Obligations.SnapshotRecordsRoundTrip : Prop :=
  (∀ e : Entry, entryInRange e → (stationRecord e).length = 16 ∧ loadedEntry (stationRecord e) = e) ∧
  (∀ q : QueueEntry, queueEntryInRange q → (queueRecord q).length = 19 ∧ loadedQueueEntry (queueRecord q) = q) ∧
  ∀ c : Committed, c.table.length = 16 → (∀ e ∈ c.table, entryInRange e) → c.queue.length ≤ 12 →
    (∀ q ∈ c.queue, queueEntryInRange q) →
    let body := snapshotBody c
    body.length = 262 + 19 * c.queue.length ∧ (byteAt body 261).toNat = c.queue.length ∧
      loadedState body = { c with unburnt := 0 }

/-! The link. -/

/-- FRAME_START and START_BIT_DETECTED. At the first moment of R24 that has not passed, the head of the queue goes on
the line, its round and CRC filled then (R19); the rank is computed from L as it stood at three slots of quiet. A
moment that is now may be let pass (log 23), and the clock moves to the moment (log 2). A start bit of another frame
begins one or goes on with the one that has not ended (R17). Both hold the silence timer of a LISTENING node (R123).
-/
def Obligations.FrameStartSendsHead : Prop :=
  ∀ s : State, s.lc.onLine = none →
    let holding : AllocationEngine :=
      { s.ae with silenceTimer := if s.ae.join = .listening then .held else s.ae.silenceTimer }
    (∀ (q : QueuedFrame) (rest : List QueuedFrame) (since k : Nat) (view : Option Address),
      s.lc.queue = q :: rest → s.lc.line = .quiet since view → admits s.ae.join s.lc.muted q.body = true →
      let slots := 3 + (s.address - view.getD s.lc.lastSender - 1).val + 16 * k
      let now := since + 250 * slots
      let round : Word16 :=
        if s.ae.round = 0 then 0
        else if q.body = .mark then (if s.ae.round = 0xFFFF then 1 else s.ae.round + 1)
        else s.ae.round
      s.now ≤ now → (k ≠ 0 → since + 250 * (slots - 16) ≤ s.now) →
      exec (.frameStart slots) s = .next
        { s with
          now
          lc :=
            { s.lc with
              onLine := some { round, chars := frameChars s.address round q.body }, line := .busy now now .begun }
          ae := holding }) ∧
    (∀ since view, s.lc.line = .quiet since view →
      exec .startBitDetected s = .next { s with lc := { s.lc with line := .busy s.now s.now .nothing }, ae := holding }) ∧
    ∀ first last own, s.lc.line = .busy first last own →
      exec .startBitDetected s = .next { s with lc := { s.lc with line := .busy first s.now own }, ae := holding }

/-- A collision below the eighth leaves the frame at the head with its count raised (R27), ahead of a TRIP or CLEAR
that waits (log 29); a STATUS gives way to a newer one that waits (R30; log 28). The eighth discards the frame, counts
the discard, tells the originator, and raises NOT-TAKEN for a CLAIM, YIELD or DUTY (R28, R66, R122, R146, R148); a TRIP
or CLEAR that the AE offered is not held again (log 13). The eighth of the ASK that an ASKED TTU follows fails the
attempt, and with it, at the third, comes REJOIN in the same step (R107, R113; log 14); that of the block a server
follows ends SERVING (R109). -/
def Obligations.CollisionRule : Prop :=
  ∀ (s : State) (l : LineFrame) (q : QueuedFrame) (rest : List QueuedFrame),
    s.lc.onLine = some l → s.lc.queue = q :: rest → s.ttu.attempts < 3 →
    let givesWay := ofClass .status q = true ∧ ∃ x ∈ rest, ofClass .status x = true
    let lost := discarded (lineStopped s rest)
    let isAsked := ∃ server attempt, s.ttu.phase = .asked server attempt
    (q.collisions < 7 → ¬ givesWay →
      exec .collision s = .next (lineStopped s ({ q with collisions := q.collisions + 1 } :: rest))) ∧
    (q.collisions < 7 → givesWay → exec .collision s = .next (lineStopped s rest)) ∧
    (q.collisions = 7 → ¬ (q.tracked = true ∧ (isAsk q.body = true ∧ isAsked ∨ isBlock q.body = true)) →
      exec .collision s = .next
        { lost with
          ae :=
            match q.body, q.tracked, q.originator with
            | .claim _, true, _ =>
              if s.ae.demand.stage = .queued then { s.ae with demand := { stage := .idle, outcome := .notTaken } }
              else s.ae
            | .announce _, _, _ => { s.ae with announced := false }
            | .trip, _, .eiu => { s.ae with hold := s.ae.hold ++ [.trip] }
            | .clear target, _, .eiu => { s.ae with hold := s.ae.hold ++ [.clear target] }
            | _, _, _ => s.ae
          pp :=
            match q.body with
            | .claim _ | .yield _ | .duty _ => { s.pp with flags := withFlag s.pp.flags .notTaken }
            | _ => s.pp }) ∧
    (q.collisions = 7 → q.tracked = true → isAsk q.body = true → isAsked →
      exec .collision s = .next (afterFailures (attemptFailed lost))) ∧
    (q.collisions = 7 → q.tracked = true → isBlock q.body = true → exec .collision s = .next (servingOver lost))

/-- R30, R31: a frame offered at a full queue. A MARK merges, with one on the line too (log 28), and a STATUS replaces,
as at any time; an ordinary frame is refused; a frame of another class displaces the newest ordinary frame that waits,
with the loss told to its originator (R66, R107, R109, R122), or is refused where none waits. -/
def Obligations.FullQueueDisplaces : Prop :=
  ∀ (s : State) (q : QueuedFrame), admits s.ae.join s.lc.muted q.body = true → 8 ≤ s.lc.queue.length →
    let waiting := waitingFrames s.lc
    let merges := ofClass .mark q = true ∧ ∃ x ∈ s.lc.queue, ofClass .mark x = true
    let replaces := ofClass .status q = true ∧ ∃ x ∈ waiting, ofClass .status x = true
    (merges → offerFrame q s = (true, s)) ∧
    (replaces → offerFrame q s = (true, requeued s (waiting.filter (fun x => !ofClass .status x) ++ [q]))) ∧
    (¬ merges → ¬ replaces → (ofClass .ordinary q = true ∨ ∀ x ∈ waiting, ofClass .ordinary x = false) →
      offerFrame q s = (false, refusedFull s q.body)) ∧
    (¬ merges → ¬ replaces → ofClass .ordinary q = false →
      ∀ above x below, waiting = above ++ x :: below → ofClass .ordinary x = true →
        (∀ y ∈ below, ofClass .ordinary y = false) →
        let rest := above ++ below
        let placed := requeued s (if ofClass .status q = true then rest ++ [q] else behindHead q rest)
        let lost := raised (discarded placed) .notTaken
        let isAsked := ∃ server attempt, s.ttu.phase = .asked server attempt
        (¬ (x.tracked = true ∧ (isAsk x.body = true ∧ isAsked ∨ isBlock x.body = true)) →
          offerFrame q s =
            (true,
              { lost with
                ae :=
                  match x.body, x.tracked with
                  | .claim _, true =>
                    if s.ae.demand.stage = .queued then { s.ae with demand := { stage := .idle, outcome := .notTaken } }
                    else s.ae
                  | .announce _, _ => { s.ae with announced := false }
                  | _, _ => s.ae })) ∧
        (x.tracked = true → isAsk x.body = true → isAsked → offerFrame q s = (true, attemptFailed lost)) ∧
        (x.tracked = true → isBlock x.body = true → offerFrame q s = (true, servingOver lost)))

/-- FRAME_SENT and FRAME_END of the node's own frame of a journaled kind. As it counts as sent it leaves the queue and
is delivered (R26): its record is taken and a tracked CLAIM's demand is TAKEN (R44, R65), or, past the fortieth
record, it is not taken and the sender acts by its kind (R47, R66, R122). At its end it is judged, counted and sets L
(R20, R23); it is not delivered again (log 4). -/
def Obligations.OwnFrameSentAndEnds : Prop :=
  ∀ s : State, s.ttu.attempts < 3 →
    (∀ (l : LineFrame) (q : QueuedFrame) (rest : List QueuedFrame) (first : Nat) (r : Record),
      sendingSince s l q rest first →
      recordOf { sender := s.address, round := l.round, body := q.body } = some r →
      (s.ae.join = .listening ∨ s.ae.join = .joined ∨ s.ae.join = .diverged) → s.ae.round ≠ 0 →
      (∀ b, q.body = .status b → l.round = s.ae.round) →
      let off := ownFrameOff s l rest first
      (s.ae.journal.length < 40 →
        exec .frameSent s = .next
          { off with
            ae :=
              { s.ae with
                journal := s.ae.journal ++ [r]
                demand :=
                  if q.tracked = true ∧ isClaim q.body = true ∧ s.ae.demand.stage = .queued then
                    { stage := .taken, outcome := s.ae.demand.outcome }
                  else s.ae.demand } }) ∧
      (s.ae.journal.length = 40 →
        exec .frameSent s = .next
          { off with
            ae :=
              match q.body, q.tracked with
              | .claim _, true =>
                if s.ae.demand.stage = .queued then { s.ae with demand := { stage := .idle, outcome := .notTaken } }
                else s.ae
              | .announce _, _ => { s.ae with announced := false }
              | .trip, _ => { s.ae with hold := s.ae.hold ++ [.trip] }
              | .clear target, _ => { s.ae with hold := s.ae.hold ++ [.clear target] }
              | _, _ => s.ae
            pp :=
              match q.body with
              | .status _ => s.pp
              | _ => { s.pp with flags := withFlag s.pp.flags .notTaken } })) ∧
    ∀ (chars : List Byte) (framingError : Bool) (f : GoodFrame),
      s.lc.onLine = none → ownPart s.lc.line = .sent chars → judgeFrame chars framingError = some f →
      exec (.frameEnd chars framingError) s = .next (heardGood (frameEnded s chars.length) f.sender)

/-- FRAME_END of a frame that is none of the node's own. A good frame of the journaled kinds is counted, sets L, and is
taken as one record at the journal's end under the conditions of R44, else only counted (R20, R23, R46); the OFFER that
the node may answer is OfferAnswered's. A failed frame counts a CRC error, leaves L, and is one GAP where the journal is
open and has room (R20, R45). -/
def Obligations.PeerFrameEnds : Prop :=
  ∀ (s : State) (chars : List Byte) (framingError : Bool), s.ttu.attempts < 3 →
    let opened := (s.ae.join = .listening ∨ s.ae.join = .joined ∨ s.ae.join = .diverged) ∧ s.ae.round ≠ 0 ∧
      s.ae.journal.length < 40
    let e := frameEnded s chars.length
    (∀ (f : GoodFrame) (r : Record), peerFrameEnds s chars framingError f → noClash s f.sender → recordOf f = some r →
      ¬ mayAnswer s f →
      let taken := opened ∧ ∀ b, f.body = .status b → f.round = s.ae.round
      (taken → exec (.frameEnd chars framingError) s = .next (withRecord (heardGood e f.sender) r)) ∧
      (¬ taken → exec (.frameEnd chars framingError) s = .next (heardGood e f.sender))) ∧
    (s.lc.onLine = none → judgeFrame chars framingError = none →
      let c :=
        { e with lc := { e.lc with counters := { e.lc.counters with crcErrors := countUp e.lc.counters.crcErrors } } }
      (opened → exec (.frameEnd chars framingError) s = .next (withRecord c .gap)) ∧
      (¬ opened → exec (.frameEnd chars framingError) s = .next c))

/-- A good frame with the node's own address that the node had no part in: MUTED, the queue emptied, REJOIN-HOLD in
the stack, ADDRESS-CLASH and JOIN-CHANGE raised, LEAD released, an attempt ended; a pending demand that is QUEUED or
TAKEN ends NOT-TAKEN, without that flag (R22, R34, R37, R66, R68, R98, R116, R128). Everything else is kept: the other
entries of the stack, the plant-trip mark, the cap, the last demanded tier, the latched record, the period (R76, R116,
R142, R154). The clash is acted on before the delivery, of which a MUTED node takes nothing (log 12); the target duty
follows the stack (log 35). -/
def Obligations.AddressClashMutes : Prop :=
  ∀ (s : State) (chars : List Byte) (framingError : Bool) (f : GoodFrame),
    peerFrameEnds s chars framingError f → f.sender = s.address → ownPart s.lc.line = .nothing →
    s.ae.join ≠ .profile → s.lc.muted = false →
    let h := heardGood (frameEnded s chars.length) f.sender
    let muted :=
      { h with
        lc := { h.lc with queue := [], muted := true }
        ttu := { phase := .idle, attempts := 0, buffer := [], answerTimer := .stopped, stallTimer := .stopped }
        ae :=
          { s.ae with
            join := .muted, roundTimer := .running h.now, silenceTimer := .stopped, journal := [], announced := false
            demand := if s.ae.demand.stage = .idle then s.ae.demand else { stage := .idle, outcome := .notTaken }
            hold := [] } }
    let pushed := devicePush .rejoinHold muted
    let t := raised (raised { pushed with vd := { pushed.vd with lead := false } } .addressClash) .joinChange
    exec (.frameEnd chars framingError) s = .next t ∧
      (∀ n, n ≠ 10 → n ≠ 11 → n ≠ 15 → t.pp.flags.getLsbD n = s.pp.flags.getLsbD n) ∧
      (stackLaw s.ovs.stack → ∃ e ∈ t.ovs.stack, e.kind = .rejoinHold ∧ e.void = false) ∧
      t = { muted with
            ovs := t.ovs, pp := { s.pp with flags := t.pp.flags }
            vd := { s.vd with target := t.vd.target, lead := false } }

/-! Taking in a MARK. -/

/-- A MARK that opens nothing, a peer's or the node's own: adopted while the round is unknown, a duplicate, or met in
PROFILE or MUTED (R39, R40). -/
def Obligations.MarkWithoutClose : Prop :=
  ∀ (s h : State) (i : Instr) (carried : Word16), takesMark s h i carried → s.ttu.attempts < 3 →
    let duplicate :=
      { h with
        lc := { h.lc with counters := { h.lc.counters with duplicateMarks := countUp h.lc.counters.duplicateMarks } } }
    ((s.ae.join = .profile ∨ s.ae.join = .muted) → exec i s = .next h) ∧
    ((s.ae.join = .listening ∨ s.ae.join = .joined ∨ s.ae.join = .diverged) →
      (s.ae.round = 0 → carried ≠ 0 →
        exec i s = .next { h with ae := { h.ae with round := carried, journal := [] } }) ∧
      ((carried = s.ae.round ∨ carried = 0) → exec i s = .next duplicate))

/-- The ordinary close of a JOINED or DIVERGED node at a MARK of the next round, or of another round on a slip, a
peer's or the node's own: the join state of the tally, the stages of R49 on the journal, the next round open with an
empty journal, its timer restarted, the digest of the new state, the capped base setpoint and the lead duty handed on,
the entries of the plant trip and of the own presence (DeviceEntries), the Sampler's figures latched, the MARK
withdrawn, the events of the close, a demand that stands TAKEN ended with the own last verdict (R66; one that is QUEUED
loses its CLAIM where a full queue displaces it, and the announce mark is kept but where its ANNOUNCE is displaced,
R122); nothing else but the frames it offers and what they displace (R14, R36, R37, R39 to R41, R47 to R50, R67, R76,
R85, R86, R94, R97, R100 to R103, R105, R153). An attempt in progress fails at it but at a return by agreement, an ASK
that the full queue refuses fails too, and REJOIN follows the results where either is the third (R113, R114). The order
of the results is log 7, LEAD at a return by agreement log 31. -/
def Obligations.MarkClosesRound : Prop :=
  ∀ (s h : State) (i : Instr) (next : Word16), closesRound s h i next →
    let before := s.ae.committed
    let r := closeState before s.ae.journal
    ∃ t, exec i s = .next (afterFailures t) ∧
      t.ae.join = joinAfterTally s.address s.ae.join (tallyOf s.address s.ae.digest s.ae.journal) ∧
      t.ae.round = next ∧ t.ae.journal = [] ∧ t.ae.roundTimer = .running h.now ∧ t.ae.hold = [] ∧
      t.ae.committed = r.state ∧ t.ae.digest = crc16 (snapshotBody r.state) ∧
      t.ae.ownBurn = placedBurn r.placed s.address ∧
      t.ae.cap = (if t.ae.join = .diverged then (if s.ae.join = .joined then some s.vd.baseSetpoint else s.ae.cap)
        else none) ∧
      t.vd.baseSetpoint =
        (let own : Word16 := match s.role with
          | .producer | .store => s.profileWord 2
          | .consumer => grantedDrawOf r.state.queue s.address
          | .flare => BitVec.ofNat 16 (placedBurn r.placed s.address)
        match t.ae.cap with
        | none => own
        | some c => if own.toNat ≤ c.toNat then own else c) ∧
      t.vd.lead = (decide (r.state.duty = some s.address) && (decide (t.ae.join ≠ .diverged) || s.vd.lead)) ∧
      t.ae.latched = s.smp.smoothed ∧ t.ae.silenceTimer = s.ae.silenceTimer ∧ t.ae.lastTier = s.ae.lastTier ∧
      (let handed := withStack
        { h with
          ae := { h.ae with round := next, committed := r.state }
          vd := { h.vd with baseSetpoint := t.vd.baseSetpoint } } h.ovs.stack
      let u := ownLiveNotice (plantTripReconcile handed)
      t.ovs = u.ovs ∧ t.vd = { u.vd with lead := t.vd.lead } ∧ t.ae.plantTrip = u.ae.plantTrip ∧
        t.ae.ownLive = u.ae.ownLive ∧
        (t.pp.flags.getLsbD 11 = true ↔ u.pp.flags.getLsbD 11 = true)) ∧
      (let raisedWhen := fun (n : Nat) (c : Prop) =>
        (t.pp.flags.getLsbD n = true ↔ s.pp.flags.getLsbD n = true ∨ c)
      let was := fun a => (entryOf before.table a).presence
      let is := fun a => (entryOf r.state.table a).presence
      raisedWhen 0 (r.written.getLsbD s.address.val = true) ∧
        raisedWhen 1
          (s.role = .consumer ∧ grantedTierOf before.queue s.address ≠ grantedTierOf r.state.queue s.address ∨
            s.role = .flare ∧ s.ae.ownBurn ≠ t.ae.ownBurn) ∧
        raisedWhen 2 (∃ a, was a = .joining ∧ is a = .live) ∧ raisedWhen 3 (∃ a, was a = .live ∧ is a ≠ .live) ∧
        raisedWhen 4 (s.ae.join = .joined ∧ t.ae.join = .diverged) ∧
        raisedWhen 7 (¬ (before.trips = 0 ↔ r.state.trips = 0)) ∧ raisedWhen 8 (before.duty ≠ r.state.duty) ∧
        raisedWhen 15 (s.ae.join ≠ t.ae.join) ∧ ∀ n ∈ [5, 9, 10, 13, 14], raisedWhen n False) ∧
      t.lc =
        { h.lc with
          queue := t.lc.queue
          counters :=
            { h.lc.counters with
              discards := t.lc.counters.discards
              roundSlips :=
                if next = (if s.ae.round = 0xFFFF then 1 else s.ae.round + 1) then h.lc.counters.roundSlips
                else countUp h.lc.counters.roundSlips } } ∧
      (∀ q ∈ t.lc.queue, q.body ≠ .mark) ∧
      (let d := s.ae.demand
      (d.stage = .taken →
          t.ae.demand = { stage := .idle, outcome := .verdict (entryOf r.state.table s.address).verdict }) ∧
        (d.stage = .idle → t.ae.demand = d) ∧
        (d.stage = .queued →
          let lost := t.lc.queue.countP demandsClaim ≠ h.lc.queue.countP demandsClaim
          t.ae.demand = (if lost then { stage := .idle, outcome := .notTaken } else d) ∧
            (lost → t.pp.flags.getLsbD 12 = true))) ∧
      t.ae.announced = (s.ae.announced && decide (t.lc.queue.countP announces = h.lc.queue.countP announces)) ∧
      (let returned := s.ae.join = .diverged ∧ t.ae.join = .joined
      let failed := s.ttu.attempts + (if asking s.ttu.phase = true then 1 else 0)
      let asks := t.ae.join = .diverged ∧ failed < 3 ∧ (tallyOf s.address s.ae.digest s.ae.journal).differing ≠ []
      (returned → t.ttu.attempts = 0) ∧
        (¬ returned → t.ttu.attempts = failed ∨ asks ∧ t.ttu.attempts = failed + 1) ∧
        (asks → isServing s.ttu.phase = false → 8 ≤ (h.lc.queue.filter fun q => decide (q.body ≠ .mark)).length →
          t.ttu =
            { phase := .idle, attempts := failed + 1, buffer := [], answerTimer := .stopped,
              stallTimer := .stopped })) ∧
      t = { h with
            lc := t.lc, ae := t.ae, ttu := t.ttu, ovs := t.ovs, vd := t.vd, pp := { h.pp with flags := t.pp.flags } }

/-- What an ordinary close does at the TTU, the pending demand and the transmit queue, with room there (R41, R47, R50,
R66, R96, R103, R106, R107, R109, R113, R114, R153): an attempt in progress fails, or ends at a return by agreement;
SERVING ends; a DIVERGED node asks, but after a third failure; a flare that may takes an open offer; the held frames
and the node's STATUS go into the queue, which is left without a MARK; after a third failure REJOIN follows. That the
ASK, the TAKE, the held frames and the STATUS are offered in this order is the model's choice (log 7), and so is that the
buffer keeps its bytes as SERVING ends (log 21). A refusal BLOCK 0 that waits stays (log 30). The first clause says what
every STATUS of the node's own holds (R8, R11, R12, R89, R149, R153), wherever a statement names ownStatus; its governing
kind is TargetDuty's. -/
def Obligations.CloseOffersFrames : Prop :=
  (∀ u : State,
    let high := fun k => BitVec.ofNat 16 ((u.profileWord k).toNat / 256)
    let low := fun k => BitVec.ofNat 16 ((u.profileWord k).toNat % 256)
    let shutIn := ∃ e ∈ u.ovs.stack, isolatesNow e
    let latched := u.ae.latched
    let b := u.ownStatus
    b.role = u.role ∧ b.digest = u.ae.digest ∧ b.governing = governingKind u.ovs.stack ∧
    (b.flame = true ↔ u.role = .flare ∧ u.eiu.flame = true) ∧
    (b.dutyAllowed = true ↔ u.role = .flare ∧ (u.profileWord 0).getLsbD 2 = true) ∧
    (u.role = .producer → b.figures = [latched.ch0, latched.ch1]) ∧
    (u.role = .store →
      ∃ capacity : Word16, (shutIn → capacity = 0) ∧ (¬ shutIn → capacity = u.profileWord 12) ∧
        b.figures =
          [latched.ch3, some capacity, some (high 13), some (low 13), some (high 14), some (low 14),
            some (u.profileWord 15)]) ∧
    (u.role = .consumer → b.figures = [latched.ch0]) ∧
    (u.role = .flare →
      ∃ burn : Word16, (u.eiu.flame = true → ¬ shutIn → burn = u.profileWord 16) ∧
        ((u.eiu.flame = false ∨ shutIn) → burn = 0) ∧ b.figures = [some burn, latched.ch0])) ∧
  ∀ (s h : State) (i : Instr) (next : Word16), closesRound s h i next → s.lc.muted = false →
    h.lc.queue.length + s.ae.hold.length + 3 ≤ 8 →
    ∃ t, exec i s = .next (afterFailures t) ∧
      let returned := s.ae.join = .diverged ∧ t.ae.join = .joined
      let idle := fun (attempts : Nat) =>
        ({ phase := .idle, attempts, buffer := [], answerTimer := .stopped, stallTimer := .stopped } : TransferUnit)
      let unmarked := h.lc.queue.filter fun q => decide (q.body ≠ .mark)
      let ended : TransferUnit × List QueuedFrame :=
        if returned then (idle 0, unmarked.map (unfollowed isAsk))
        else
          match s.ttu.phase with
          | .idle => (s.ttu, unmarked)
          | .asked _ _ | .loading _ _ _ _ _ _ => (idle (s.ttu.attempts + 1), unmarked.map (unfollowed isAsk))
          | .serving _ _ _ _ _ _ =>
            ({ s.ttu with phase := .idle },
              (unmarked.filter fun q => !(q.tracked && isBlock q.body)).map (unfollowed isBlock))
      let server :=
        if t.ae.join = .diverged ∧ ended.1.attempts < 3 then
          chooseServer (tallyOf s.address s.ae.digest s.ae.journal).differing
        else none
      let asked : TransferUnit × List QueuedFrame :=
        match server with
        | none => ended
        | some a =>
          let attempt := ended.1.attempts + 1
          ({ ended.1 with phase := .asked a attempt },
            ended.2 ++ [{ body := .ask a attempt, originator := .ttu, tracked := true, collisions := 0 }])
      let takes := t.ae.committed.offer = true ∧ s.role = .flare ∧ (s.profileWord 0).getLsbD 2 = true ∧
        eligible (entryOf t.ae.committed.table s.address) = true ∧
        (∃ a, t.ae.committed.duty = some a ∧ a ≠ s.address) ∧ ∀ q ∈ asked.2, q.body ≠ .duty .take
      let took := if takes then asked.2 ++ [newFrame (.duty .take) .ae] else asked.2
      t.ttu = asked.1 ∧
      t.lc.queue =
        ((s.ae.hold.foldl (fun w f => behindHead (newFrame (heldBody f) .ae) w) took).filter fun q =>
          !ofClass .status q) ++ [newFrame (.status t.ownStatus) .ae] ∧
      t.lc.counters.discards = s.lc.counters.discards ∧ t.ae.announced = s.ae.announced ∧
      t.ae.demand =
        (if s.ae.demand.stage = .taken then { stage := .idle, outcome := .verdict t.ownEntry.verdict }
        else s.ae.demand) ∧
      (t.pp.flags.getLsbD 6 = true ↔
        s.pp.flags.getLsbD 6 = true ∨ (asking s.ttu.phase = true ∧ ¬ returned)) ∧
      (t.pp.flags.getLsbD 12 = true ↔ s.pp.flags.getLsbD 12 = true)

/-- The witnessed close of a LISTENING node (R42, R106, R107, R113, R114, R122): the next round open with an empty
journal; an ANNOUNCE where the journal held a STATUS and the announce mark is clear, the mark set if the LC takes it;
the attempt in progress failed, with REJOIN at the third; and behind an ANNOUNCE, of this close or before, the ASK to
the station chosen. At a full queue either frame is refused, and the ASK's refusal fails its attempt. -/
def Obligations.WitnessedClose : Prop :=
  ∀ (s h : State) (i : Instr) (next : Word16), takesMark s h i next → s.lc.muted = false →
    s.ae.join = .listening → s.ae.round ≠ 0 → next ≠ 0 → next ≠ s.ae.round → s.ttu.attempts < 3 →
    let c :=
      if next = (if s.ae.round = 0xFFFF then 1 else s.ae.round + 1) then h
      else { h with lc := { h.lc with counters := { h.lc.counters with roundSlips := countUp h.lc.counters.roundSlips } } }
    let opened := { c with ae := { c.ae with round := next, journal := [] } }
    let announced :=
      { opened with
        ae := { opened.ae with announced := true }
        lc := { opened.lc with queue := h.lc.queue ++ [newFrame (.announce s.role) .ae] } }
    let found := ∃ a b, .status a b ∈ s.ae.journal
    (¬ found → exec i s = .next (afterFailures (noticed opened))) ∧
    (found → s.ae.announced = false → 8 ≤ h.lc.queue.length →
      exec i s = .next (afterFailures (noticed (discarded opened)))) ∧
    ∀ u, (s.ae.announced = true ∧ u = noticed opened ∨
        s.ae.announced = false ∧ h.lc.queue.length < 8 ∧ u = noticed announced) →
      found → ∃ server, chooseServer (lastDigests (fun _ => true) s.ae.journal) = some server ∧
        let attempt := u.ttu.attempts + 1
        (u.ttu.attempts = 3 → exec i s = .next (rejoined u)) ∧
        (u.ttu.attempts < 3 → u.lc.queue.length < 8 →
          exec i s = .next
            { u with
              ttu := { u.ttu with phase := .asked server attempt }
              lc :=
                { u.lc with
                  queue := u.lc.queue ++
                    [{ body := .ask server attempt, originator := .ttu, tracked := true, collisions := 0 }] } }) ∧
        (u.ttu.attempts < 3 → 8 ≤ u.lc.queue.length →
          exec i s = .next (afterFailures (attemptFailed (discarded u))))

/-! What a close leaves. -/

/-- R5: presence, heard count and miss count after a close, row by row. -/
def Obligations.PresenceTable : Prop :=
  ∀ (c : Committed) (journal : List Record) (a : Address),
    let e := openedEntry c journal a
    let after := entryOf (closeState c journal).state.table a
    let heard := heardIn journal a e
    let is := fun (p : Presence) (h m : Nat) => after.presence = p ∧ after.heard = h ∧ after.miss = m
    (e.presence = .absent → ¬ heard → is .absent 0 0) ∧
    (e.presence = .absent → heard → is .joining 1 0) ∧
    (e.presence = .joining → ¬ heard → is .joining 0 0) ∧
    (e.presence = .joining → e.heard = 0 → heard → is .joining 1 0) ∧
    (e.presence = .joining → e.heard = 1 → heard → is .live 0 0) ∧
    (e.presence = .live → heard → is .live 0 0) ∧
    (e.presence = .live → e.miss < 2 → ¬ heard → is .live 0 (e.miss + 1)) ∧
    (e.presence = .live → e.miss = 2 → ¬ heard → is .lost 0 3) ∧
    (e.presence = .lost → ¬ heard → is .lost 0 3) ∧
    (e.presence = .lost → heard → is .joining 1 0)

/-- R4, R7 to R12, R89: role, governing kind, flame flag, duty-allowed mark and committed figures after a close. A station
that announced starts from the entry R4 leaves. The last counted STATUS stands for role, kind, flag and mark, and the last
one that carried a field present for that figure; every other figure ages, and goes to 0 as its age reaches 3; a list of
another role is not carried over. Which role counts at an ABSENT or LOST entry heard under two roles is log 8. -/
def Obligations.FiguresAge : Prop :=
  ∀ (c : Committed) (journal : List Record) (a : Address),
    let e := openedEntry c journal a
    let presence := entryOf (presenceStage journal c.table) a
    let after := entryOf (closeState c journal).state.table a
    let records := statusesOf (afterAnnounce journal) a
    let role :=
      if e.presence = .joining ∨ e.presence = .live then e.role else records.head?.map (·.role)
    let counted := records.filter fun b => decide (some b.role = role)
    let kept := if counted = [] ∨ e.role = role then e.figures else List.replicate 8 { value := 0, age := 3 }
    (∀ ahead announced behind, journal = ahead ++ .announce a announced :: behind →
      (∀ r, Record.announce a r ∉ behind) →
      e =
        { presence := .joining, role := some announced, heard := 0, miss := 0, verdict := .none
          figures := List.replicate 8 { value := 0, age := 3 }, governing := .none, flame := false
          dutyAllowed := false }) ∧
    ((∀ r, Record.announce a r ∉ journal) → e = entryOf c.table a) ∧
    presence.verdict = e.verdict ∧ after = { presence with verdict := after.verdict } ∧
    (counted = [] → after.role = e.role ∧ after.governing = e.governing ∧ after.flame = e.flame ∧
      after.dutyAllowed = e.dutyAllowed) ∧
    (∀ last, counted.getLast? = some last → after.role = some last.role ∧ after.governing = last.governing ∧
      after.flame = (decide (last.role = .flare) && last.flame) ∧
      after.dutyAllowed = (decide (last.role = .flare) && last.dutyAllowed)) ∧
    ∀ i < kept.length,
      let before := kept.getD i { value := 0, age := 3 }
      let figure := entryFigure after i
      let present := counted.filterMap fun b => b.figures.getD i none
      (e.presence = .absent → counted = [] → figure = before) ∧
      ((e.presence ≠ .absent ∨ counted ≠ []) → present = [] →
        figure.age = min 3 (before.age + 1) ∧ figure.value = if figure.age = 3 then 0 else before.value) ∧
      ∀ v, present.getLast? = some v → figure = { value := v, age := 0 }

/-- R58: a CLAIM from a station without an entry, the four tests in their order. -/
def Obligations.ClaimWithoutEntry : Prop :=
  ∀ (p : ClaimPass) (a : Address) (round : Word16) (b : ClaimBody), (∀ q ∈ p.queue, q.claimant ≠ a) →
    let passes :=
      (1 ≤ b.draws.length ∧ b.draws.length ≤ 5) ∧ (∀ d ∈ b.draws, 1 ≤ d.toNat ∧ d.toNat ≤ 4095) ∧
        b.draws.Pairwise (· < ·) ∧ b.minMethane ≤ 100 ∧ 1 ≤ b.tier ∧ b.tier ≤ 5 ∧ b.tier ≤ b.draws.length
    let refused := fun (v : Verdict) =>
      { p with
        table := p.table.set a.val { entryOf p.table a with verdict := v }
        written := p.written ||| bitWord a.val }
    claimRecord p (.claim a round b) =
      if (entryOf p.table a).presence ≠ .live then refused .refusedNotLive
      else if (entryOf p.table a).role ≠ some .consumer then refused .refusedRole
      else if ¬ passes then refused .refusedTier
      else if 12 ≤ p.queue.length then refused .refusedFull
      else
        { p with
          queue := p.queue ++
            [{ claimant := a, requested := b.tier, draws := b.draws, minMethane := b.minMethane, granted := 0,
               shortfall := false, state := .waiting, joined := round }]
          marked := p.marked ||| bitWord a.val }

/-- R56, R57, R59 to R61: the claim stage, which removes the entries of stations that may hold none and applies the
records in journal order; a CLAIM or YIELD from a station that holds an entry, and a YIELD from one that holds none. -/
def Obligations.ClaimOfHolder : Prop :=
  ∀ (p : ClaimPass) (a : Address),
    (∀ ahead q behind, p.queue = ahead ++ q :: behind → q.claimant = a → (∀ x ∈ ahead ++ behind, x.claimant ≠ a) →
      let ended :=
        verdictWritten { p with queue := ahead ++ behind, marked := p.marked &&& ~~~bitWord a.val } a .none
      let changed := fun (q' : QueueEntry) =>
        { p with queue := ahead ++ q' :: behind, marked := p.marked ||| bitWord a.val }
      (∀ round b, b.tier = 0 → claimRecord p (.claim a round b) = ended) ∧
      (∀ round b, b.tier ≠ 0 → ¬ contractFits b → claimRecord p (.claim a round b) = verdictWritten p a .refusedTier) ∧
      (∀ round b, contractFits b →
        claimRecord p (.claim a round b) =
          changed (atTier { q with draws := b.draws, minMethane := b.minMethane } b.tier)) ∧
      claimRecord p (.yield a 0) = ended ∧
      ∀ tier, tier ≠ 0 →
        (tier ≤ q.draws.length → claimRecord p (.yield a tier) = changed (atTier q tier)) ∧
        (q.draws.length < tier → claimRecord p (.yield a tier) = verdictWritten p a .refusedTier)) ∧
    ((∀ q ∈ p.queue, q.claimant ≠ a) → ∀ tier, claimRecord p (.yield a tier) = p) ∧
    (∀ r, (∀ b round body, r ≠ .claim b round body) → (∀ b tier, r ≠ .yield b tier) → claimRecord p r = p) ∧
    ∀ (journal : List Record) (table : List Entry) (queue : List QueueEntry),
      claimStage journal table queue =
        (afterAnnounce journal).foldl claimRecord
          { queue := queue.filter fun q =>
              decide ((entryOf table q.claimant).presence = .live ∧ (entryOf table q.claimant).role = some .consumer)
            table, marked := 0, written := 0 }

/-- R56, R57: after a close no contract is held by a station that is not LIVE or no CONSUMER, the queue holds at most 12
entries and never two of one station, given that it began so. -/
def Obligations.ContractsOfLiveConsumers : Prop :=
  ∀ (c : Committed) (journal : List Record),
    c.queue.length ≤ 12 → (c.queue.map (·.claimant)).Nodup →
    let after := (closeState c journal).state
    after.queue.length ≤ 12 ∧ (after.queue.map (·.claimant)).Nodup ∧
      ∀ q ∈ after.queue, (entryOf after.table q.claimant).presence = .live ∧
        (entryOf after.table q.claimant).role = some .consumer

/-- R62: a close keeps every granted tier within the requested tier and the tier list, in a queue that holds no two
entries of one station (R52; ContractsOfLiveConsumers keeps that law). -/
def Obligations.GrantsWithinRequests : Prop :=
  ∀ (c : Committed) (journal : List Record), (c.queue.map (·.claimant)).Nodup →
    grantLaw c.queue → grantLaw (closeState c journal).state.queue

/-- R70 to R73: production and plant methane of the LIVE producers, the stores taken into account, the holder allowance
and the available gas. -/
def Obligations.AvailableGas : Prop :=
  ∀ table : List Entry,
    let producers := liveStations table .producer
    let weighted := (producers.map fun a => tableFigure table a 0 * tableFigure table a 1).sum
    let fill := holderFill table
    production table = (producers.map fun a => tableFigure table a 0).sum ∧
    (production table = 0 → plantMethane table = 0) ∧
    (production table ≠ 0 → plantMethane table = weighted / production table) ∧
    (storesCounted table = [] → availableGas table = production table) ∧
    ∀ first rest, storesCounted table = first :: rest →
      let low := tableFigure table first 2
      let k := tableFigure table first 5
      let discharge := tableFigure table first 6
      (low < fill → availableGas table = production table + min discharge ((fill - low) * k)) ∧
      (fill ≤ low → availableGas table = production table - (low - fill) * k)

/-- R77 to R80: one entry of the grant walk, its grant, shortfall count, entry state, the running total and the
verdict; and the walk of a close whose trip set is empty, over the claim stage's queue from its head, the total from 0,
each verdict written as it falls. -/
def Obligations.GrantRule : Prop :=
  (∀ (c : Committed) (journal : List Record),
    let r := closeState c journal
    let claims := claimStage journal (presenceStage journal c.table) c.queue
    let walked := claims.queue.foldl
      (walkStep (plantMethane r.state.table) (availableGas r.state.table) claims.marked) (0, { claims with queue := [] })
    r.state.trips = 0 →
      r.state.queue = walked.2.queue ∧ r.state.table = walked.2.table ∧ r.written = walked.2.written) ∧
  ∀ (methane gas cum : Nat) (marked : Word16) (q : QueueEntry),
    let claimed := marked.getLsbD q.claimant.val = true
    (methane < q.minMethane →
      walkEntry methane gas marked cum q =
        ({ q with granted := 0, shortfall := false, state := .suppressed }, cum,
          if 0 < q.granted ∨ claimed then some .suppressed else none)) ∧
    (q.minMethane ≤ methane →
      ∃ fit, fit ≤ q.requested ∧ (fit = 0 ∨ cum + drawOf q fit ≤ gas) ∧
        (∀ t, fit < t → t ≤ q.requested → gas < cum + drawOf q t) ∧
        let granted := if fit < q.granted ∧ q.shortfall = false then q.granted else fit
        let state : EntryState :=
          if granted = 0 then .waiting else if granted = q.requested then .full else .partialGrant
        walkEntry methane gas marked cum q =
          ({ q with granted, shortfall := decide (fit < q.granted ∧ q.shortfall = false), state },
            cum + drawOf q granted,
            if fit < q.granted ∧ q.shortfall = true then some .cut
            else if claimed then
              some (if granted = 0 then .deferred else if granted = q.requested then .granted else .partialGrant)
            else none))

/-- R81: the draws of the grants whose shortfall count is 0 sum to no more than the available gas. -/
def Obligations.UnheldGrantsFitTheGas : Prop :=
  ∀ (c : Committed) (journal : List Record),
    let after := (closeState c journal).state
    grantedDraw (after.queue.filter fun q => !q.shortfall) ≤ availableGas after.table

/-- R75: the trip close. The queue is the claim stage's, each entry with grant 0, shortfall 0 and SUPPRESSED. -/
def Obligations.TripCloseSuppresses : Prop :=
  ∀ (c : Committed) (journal : List Record),
    let r := closeState c journal
    let claims := claimStage journal (presenceStage journal c.table) c.queue
    r.state.trips ≠ 0 →
    r.state.queue = (claims.queue.map fun q => { q with granted := 0, shortfall := false, state := .suppressed }) ∧
      r.state.table = claims.table ∧ r.written = claims.written ∧ r.state.flaring = c.flaring ∧
      (r.placed.map (·.2)).sum + r.state.unburnt = production r.state.table

/-- R74: the trip set after stage 4. A station is in it where a TRIP of its own stands in the records that are not
passed over and no CLEAR that applies to it stands behind; or where it was in it, has not announced, and no CLEAR
applied to it. The records passed over are those before an ANNOUNCE of their sender. The trip set of a close is the one
stage 4 leaves on the table of the presence stage. -/
def Obligations.TripSetRecords : Prop :=
  (∀ (c : Committed) (journal : List Record),
    (closeState c journal).state.trips = tripStage journal (presenceStage journal c.table) c.trips) ∧
  (∀ (journal : List Record) (table : List Entry) (trips : Word16) (b : Address),
    let applies := fun (a : Address) =>
      a = b ∨ (entryOf table b).presence = .lost ∨ (entryOf table b).presence = .absent
    (tripStage journal table trips).getLsbD b.val = true ↔
      (∃ ahead behind, afterAnnounce journal = ahead ++ .trip b :: behind ∧
        ∀ a, applies a → Record.clear a b ∉ behind) ∨
      (trips.getLsbD b.val = true ∧ (∀ role, Record.announce b role ∉ journal) ∧
        ∀ a, applies a → Record.clear a b ∉ afterAnnounce journal)) ∧
  afterAnnounce [] = [] ∧
  ∀ (r : Record) (rest : List Record),
    ((∃ a role, recordSender r = some a ∧ Record.announce a role ∈ rest) →
      afterAnnounce (r :: rest) = afterAnnounce rest) ∧
    (¬ (∃ a role, recordSender r = some a ∧ Record.announce a role ∈ rest) →
      afterAnnounce (r :: rest) = r :: afterAnnounce rest)

/-- R82: the flaring flag after a close; cum is the sum of all granted draws, held ones included, and F the band of the
lowest-address store taken into account (R72). A trip close leaves the flag as it stood. -/
def Obligations.FlaringFlag : Prop :=
  ∀ (c : Committed) (journal : List Record),
    let after := (closeState c journal).state
    let fill := holderFill after.table
    (after.trips ≠ 0 → after.flaring = c.flaring) ∧
    (after.trips = 0 → ∀ first rest, storesCounted after.table = first :: rest →
      let band := tableFigure after.table first 3
      (band ≤ fill → after.flaring = true) ∧ (fill + 5 < band → after.flaring = false) ∧
        (band ≤ fill + 5 → fill < band → after.flaring = c.flaring)) ∧
    (after.trips = 0 → storesCounted after.table = [] →
      after.flaring = decide (grantedDraw after.queue < production after.table))

/-- R83, R84: the burn target, the eligible flares by ascending address with their capacities, the placement with the
duty holder first, and what is left unburnt. -/
def Obligations.BurnPlacement : Prop :=
  ∀ (c : Committed) (journal : List Record),
    let r := closeState c journal
    let flares := eligibleFlares r.state.table
    let order := flares.filter (fun p => decide (r.state.duty = some p.1)) ++
      flares.filter (fun p => decide (r.state.duty ≠ some p.1))
    let surplus := if r.state.flaring then availableGas r.state.table - grantedDraw r.state.queue else 0
    let target :=
      if r.state.trips ≠ 0 then production r.state.table
      else match storesCounted r.state.table with
        | first :: _ =>
          if tableFigure r.state.table first 4 ≤ holderFill r.state.table then (flares.map (·.2)).sum else surplus
        | [] => surplus
    (∀ a, a ∈ flares.map (·.1) ↔ (entryOf r.state.table a).presence = .live ∧
      (entryOf r.state.table a).role = some .flare ∧ 0 < burnCapacity (entryOf r.state.table a)) ∧
    (flares.map (·.1)).Pairwise (· < ·) ∧ (∀ p ∈ flares, p.2 = burnCapacity (entryOf r.state.table p.1)) ∧
    r.placed.map (·.1) = order.map (·.1) ∧
    (∀ k, k < order.length → (r.placed.map (·.2)).getD k 0 =
      min (target - ((r.placed.map (·.2)).take k).sum) ((order.map (·.2)).getD k 0)) ∧
    r.state.unburnt = target - (r.placed.map (·.2)).sum

/-- R90 to R93, R88: the four steps of stage 5, one after another on the table the presence stage left; after them the
lead flare duty is NONE or names a LIVE FLARE, and an open offer has a holder. -/
def Obligations.LeadDutySteps : Prop :=
  (∀ (c : Committed) (journal : List Record),
    let after := (closeState c journal).state
    let table := (claimStage journal (presenceStage journal c.table) c.queue).table
    let d := fillDuty table (transferDuty c.table table
      (offerWalk table (vacateDuty table { duty := c.duty, offer := c.offer }) (afterAnnounce journal)))
    after.duty = d.duty ∧ after.offer = d.offer ∧ dutyLaw after) ∧
  ∀ (opening table : List Entry) (d : DutyState),
    let mayHold := fun (a : Address) => (entryOf table a).presence = .live ∧ (entryOf table a).role = some .flare ∧
      0 < burnCapacity (entryOf table a) ∧ (entryOf table a).dutyAllowed = true
    let lowest := fun (counted : Address → Prop) (o : Option Address) =>
      (∀ a ∈ o, counted a ∧ mayHold a) ∧ ∀ a, counted a → mayHold a → ∃ b ∈ o, b ≤ a
    (∀ a, d.duty = some a → (entryOf table a).presence ≠ .live → vacateDuty table d = { duty := none, offer := false }) ∧
    ((∀ a, d.duty = some a → (entryOf table a).presence = .live) → vacateDuty table d = d) ∧
    offerWalk table d [] = d ∧
    (∀ a rest, d.duty = some a →
      offerWalk table d (.duty a .offer :: rest) = offerWalk table { d with offer := true } rest ∧
      offerWalk table d (.duty a .withdraw :: rest) = offerWalk table { d with offer := false } rest) ∧
    (∀ a rest, d.offer = true → d.duty ≠ some a → mayHold a →
      offerWalk table d (.duty a .take :: rest) = { duty := some a, offer := false }) ∧
    (∀ r rest, (∀ a, r = .duty a .offer ∨ r = .duty a .withdraw → d.duty ≠ some a) →
      (∀ a, r = .duty a .take → ¬ (d.offer = true ∧ d.duty ≠ some a ∧ mayHold a)) →
      offerWalk table d (r :: rest) = offerWalk table d rest) ∧
    (∀ a, d.duty = some a → burnCapacity (entryOf opening a) = 0 → burnCapacity (entryOf table a) = 0 →
      (transferDuty opening table d).offer = false ∧ lowest (fun b => b ≠ a) (transferDuty opening table d).duty) ∧
    ((∀ a, d.duty = some a → ¬ (burnCapacity (entryOf opening a) = 0 ∧ burnCapacity (entryOf table a) = 0)) →
      transferDuty opening table d = d) ∧
    (d.duty ≠ none → fillDuty table d = d) ∧
    (d.duty = none → (fillDuty table d).offer = false ∧ lowest (fun _ => True) (fillDuty table d).duty)

/-- R100: two JOINED or DIVERGED nodes that hold the same committed state and take in the same journal leave the close
on the same MARK, sent by one of them or by a third, with the same committed state and the same digest. A third
failure of an attempt at the close would be REJOIN (MarkClosesRound), which the premise noThirdFailure leaves out. -/
def Obligations.SameJournalSameState : Prop :=
  ∀ (s t hs ht : State) (i j : Instr) (next : Word16),
    closesRound s hs i next → closesRound t ht j next → noThirdFailure s → noThirdFailure t →
    s.ae.committed = t.ae.committed → s.ae.journal = t.ae.journal →
    ∃ s' t', exec i s = .next s' ∧ exec j t = .next t' ∧
      s'.ae.committed = t'.ae.committed ∧ s'.ae.digest = t'.ae.digest

/-- R101 to R103: the join state after the tally of a close. -/
def Obligations.TallyDecides : Prop :=
  ∀ (own : Address) (opening : Word16) (journal : List Record),
    let digest := fun a => (statusesOf journal a).getLast?.map (·.digest)
    let agreeing := 1 + (addresses.filter fun a => decide (a ≠ own ∧ digest a = some opening)).length
    let differing := addresses.filter fun a => decide (a ≠ own ∧ digest a ≠ none ∧ digest a ≠ some opening)
    let t := tallyOf own opening journal
    (joinAfterTally own .joined t = .diverged ↔
      agreeing < differing.length ∨ (agreeing = differing.length ∧ ∃ a ∈ differing, a < own)) ∧
    (joinAfterTally own .joined t = .joined ∨ joinAfterTally own .joined t = .diverged) ∧
    (joinAfterTally own .diverged t = .joined ↔ differing = [] ∧ 2 ≤ agreeing) ∧
    (joinAfterTally own .diverged t = .joined ∨ joinAfterTally own .diverged t = .diverged)

/-- R106: the serving station is the lowest address among those that carry a digest carried most often. -/
def Obligations.ServerChoice : Prop :=
  ∀ (counted : Address → Bool) (journal : List Record),
    let heard := lastDigests counted journal
    (heard = [] → chooseServer heard = none) ∧
    (heard ≠ [] → ∃ a d, chooseServer heard = some a ∧ (a, d) ∈ heard ∧
      (∀ p ∈ heard, digestCount heard p.2 ≤ digestCount heard d) ∧
      ∀ p ∈ heard, digestCount heard p.2 = digestCount heard d → a ≤ p.1)

/-! Lead flare duty and table transfer at the link. -/

/-- R96: a flare that may take the duty answers the holder's OFFER, taken into its journal, with a TAKE at the tail of its
queue; at a full queue the TAKE is a discard with NOT-TAKEN (R31). An OFFER that is not taken, past forty records (R46) or
with no round open (R44), is answered by none. What counts as a TAKE outstanding is log 19. -/
def Obligations.OfferAnswered : Prop :=
  ∀ (s : State) (chars : List Byte) (framingError : Bool) (f : GoodFrame),
    peerFrameEnds s chars framingError f → mayAnswer s f → s.ttu.attempts < 3 →
    let h := heardGood (frameEnded s chars.length) f.sender
    let taken := withRecord h (.duty f.sender .offer)
    (s.ae.round ≠ 0 → s.ae.journal.length < 40 →
      (s.lc.muted = false → s.lc.queue.length < 8 →
        exec (.frameEnd chars framingError) s = .next
          (requeued taken
            (s.lc.queue ++ [{ body := .duty .take, originator := .ae, tracked := false, collisions := 0 }]))) ∧
      (s.lc.muted = false → 8 ≤ s.lc.queue.length →
        exec (.frameEnd chars framingError) s = .next (raised (discarded taken) .notTaken)) ∧
      (s.lc.muted = true → exec (.frameEnd chars framingError) s = .next taken)) ∧
    ((s.ae.round = 0 ∨ 40 ≤ s.ae.journal.length) → exec (.frameEnd chars framingError) s = .next h)

/-- R108, R109: an ASK that names the node. An idle JOINED node copies its committed state and offers BLOCK 0; one
that serves the asker restarts, its waiting block withdrawn; one that serves another station refuses BUSY; a DIVERGED
one, and one whose own attempt is in progress, refuses NOT-ELIGIBLE. At a full queue a BLOCK 0 is refused, which ends
SERVING. In PROFILE, LISTENING and MUTED the refusal is dropped. An ASK for another station is only counted. The attempt
is carried in four bits (log 17); a refusal BLOCK 0 that waits for another station stays (log 30). -/
def Obligations.AskAnswered : Prop :=
  ∀ (s : State) (chars : List Byte) (framingError : Bool) (f : GoodFrame) (server : Address) (attempt : Nat),
    peerFrameEnds s chars framingError f → f.body = .ask server attempt → f.sender ≠ s.address →
    s.ttu.attempts < 3 →
    let h := heardGood (frameEnded s chars.length) f.sender
    let body := snapshotBody s.ae.committed
    let n := (body.length + 21) / 22
    let block0 := fun (status : BlockStatus) (count : Nat) (digest : Word16) (tracked : Bool) =>
      ({ body := .blockHeader f.sender (attempt % 16) status count s.ae.round digest, originator := .ttu, tracked,
         collisions := 0 } : QueuedFrame)
    let following := s.lc.queue.filter fun q => !(q.tracked && isBlock q.body)
    let serves := fun (queue : List QueuedFrame) =>
      (queue.length < 8 →
        exec (.frameEnd chars framingError) s = .next
          (requeued
            { h with ttu := { s.ttu with phase := .serving f.sender attempt s.ae.round s.ae.digest n 0, buffer := body } }
            (queue ++ [block0 .clear n s.ae.digest true]))) ∧
      (8 ≤ queue.length →
        exec (.frameEnd chars framingError) s = .next
          (servingOver (discarded (requeued { h with ttu := { s.ttu with phase := .idle, buffer := body } } queue))))
    let refuses := fun (status : BlockStatus) =>
      (s.lc.queue.length < 8 →
        exec (.frameEnd chars framingError) s = .next (requeued h (s.lc.queue ++ [block0 status 0 0 false]))) ∧
      (8 ≤ s.lc.queue.length → exec (.frameEnd chars framingError) s = .next (discarded h))
    (server ≠ s.address → exec (.frameEnd chars framingError) s = .next h) ∧
    (server = s.address → (s.ae.join = .profile ∨ s.ae.join = .listening ∨ s.ae.join = .muted) →
      exec (.frameEnd chars framingError) s = .next h) ∧
    (server = s.address → s.lc.muted = false →
      (s.ae.join = .joined → s.ttu.phase = .idle → serves s.lc.queue) ∧
      (∀ asker m r d k i, s.ae.join = .joined → s.ttu.phase = .serving asker m r d k i →
        (asker = f.sender → serves following) ∧ (asker ≠ f.sender → refuses .busy)) ∧
      ((s.ae.join = .diverged ∨ s.ae.join = .joined ∧ asking s.ttu.phase = true) → refuses .notEligible))

/-- R107, R109: the ASK of the attempt in progress counts as sent and the answer timer starts; the followed block counts
as sent and the next block is offered at the tail, or SERVING ends after the last, the buffer keeping its bytes (log 21)
and a refusal BLOCK 0 that waits its place (log 30). An ASK or BLOCK followed no longer, or that nothing ever followed (a
refusal BLOCK 0), leaves the queue and does nothing more. -/
def Obligations.TransferFramesSent : Prop :=
  ∀ (s : State) (l : LineFrame) (q : QueuedFrame) (rest : List QueuedFrame) (first : Nat),
    sendingSince s l q rest first → s.ttu.attempts < 3 →
    let off := ownFrameOff s l rest first
    (∀ server attempt, q.tracked = true → q.body = .ask server attempt → server ≠ s.address →
      s.ttu.phase = .asked server attempt →
      exec .frameSent s = .next { off with ttu := { s.ttu with answerTimer := .running off.now } }) ∧
    (∀ server attempt, q.body = .ask server attempt → server ≠ s.address →
      (q.tracked = false ∨ ∀ a m, s.ttu.phase ≠ .asked a m) → exec .frameSent s = .next off) ∧
    (∀ asker n, ((∃ status m r d, q.body = .blockHeader asker n status m r d) ∨ ∃ m b, q.body = .blockData asker n m b) →
      asker ≠ s.address → (q.tracked = false ∨ isServing s.ttu.phase = false) → exec .frameSent s = .next off) ∧
    ∀ asker attempt round digest count k, q.tracked = true → isBlock q.body = true →
      s.ttu.phase = .serving asker attempt round digest count k →
      (k < count → s.ae.join = .joined → s.lc.muted = false → rest.length < 8 →
        exec .frameSent s = .next
          (requeued { off with ttu := { s.ttu with phase := .serving asker attempt round digest count (k + 1) } }
            (rest ++
              [{ body := .blockData asker (attempt % 16) (k + 1) ((s.ttu.buffer.drop (22 * k)).take 22)
                 originator := .ttu, tracked := true, collisions := 0 }]))) ∧
      (k = count → exec .frameSent s = .next (servingOver off)) ∧
      (k = count → (∀ x ∈ rest, x.tracked = true → isBlock x.body = false) →
        exec .frameSent s = .next { off with ttu := { s.ttu with phase := .idle } })

/-- R110, R111: BLOCK 0 with status clear, the open round and a count of 12 to 23 begins LOADING, and an ASK that still
waits is followed no longer (R107); a data block of the expected index is placed in the buffer; the timers follow. A
BLOCK that is not considered, addressed to another station, sent by none the node asked, of another attempt, or met in
IDLE or SERVING, is counted and sets L, and nothing more. -/
def Obligations.BlocksTaken : Prop :=
  ∀ (s : State) (chars : List Byte) (framingError : Bool) (f : GoodFrame) (attempt count k : Nat) (digest : Word16)
    (bytes : List Byte),
    peerFrameEnds s chars framingError f → noClash s f.sender → s.ttu.attempts < 3 →
    let h := heardGood (frameEnded s chars.length) f.sender
    (f.body = .blockHeader s.address (attempt % 16) .clear count s.ae.round digest →
      s.ttu.phase = .asked f.sender attempt → 12 ≤ count → count ≤ 23 →
      exec (.frameEnd chars framingError) s = .next
        { h with
          lc := { h.lc with queue := s.lc.queue.map (unfollowed isAsk) }
          ttu :=
            { phase := .loading f.sender attempt s.ae.round digest count 1, attempts := s.ttu.attempts, buffer := [],
              answerTimer := .stopped, stallTimer := .running h.now } }) ∧
    (f.body = .blockData s.address (attempt % 16) k bytes →
      s.ttu.phase = .loading f.sender attempt f.round digest count k → k < count → bytes.length = 22 →
      exec (.frameEnd chars framingError) s = .next
        { h with
          ttu :=
            { s.ttu with
              phase := .loading f.sender attempt f.round digest count (k + 1)
              buffer := s.ttu.buffer ++ bytes
              stallTimer := .running h.now } }) ∧
    ∀ (a : Address) (n : Nat),
      ((∃ status m r d, f.body = .blockHeader a n status m r d) ∨ ∃ m b, f.body = .blockData a n m b) →
      (∀ m, s.ttu.phase = .asked f.sender m → n = m % 16 → a ≠ s.address) →
      (∀ m r d c i, s.ttu.phase = .loading f.sender m r d c i → n = m % 16 → a ≠ s.address) →
      exec (.frameEnd chars framingError) s = .next h

/-- R112, R85: the last block of a snapshot that passes its check: the committed state of the body with its placement
computed afresh, the header digest, JOINED; round, journal, demand, last tier and hold kept; the own-live mark and the
cap clear; the setpoint and lead duty of the loaded state handed on; PLANT-TRIP-ISOLATE brought in step
(DeviceEntries); a new STATUS, in the place of one that waits; TRANSFER-DONE and JOIN-CHANGE raised, and
GRANT-CHANGED, TRIP-CHANGED and DUTY-CHANGED where the load makes the change (R76, R86, R94). At a full queue in which no
STATUS waits the STATUS displaces the newest ordinary frame or is refused (FullQueueDisplaces). -/
def Obligations.LastBlockLoads : Prop :=
  ∀ (s : State) (chars : List Byte) (framingError : Bool) (f : GoodFrame) (attempt count : Nat) (digest : Word16)
    (bytes : List Byte),
    peerFrameEnds s chars framingError f → noClash s f.sender →
    f.body = .blockData s.address (attempt % 16) count bytes →
    s.ttu.phase = .loading f.sender attempt f.round digest count count → 1 ≤ bytes.length → bytes.length ≤ 22 →
    let body := s.ttu.buffer ++ bytes
    let q := (byteAt body 261).toNat
    q ≤ 12 → body.length = 262 + 19 * q → crc16 body = digest →
    let h := heardGood (frameEnded s chars.length) f.sender
    let before := s.ae.committed
    let loaded := loadedState body
    let p := placement loaded (grantedDraw loaded.queue)
    ∃ t, exec (.frameEnd chars framingError) s = .next (offerFrame (newFrame (.status t.ownStatus) .ae) t).2 ∧
      (s.lc.muted = false → (s.lc.queue.length < 8 ∨ ∃ x ∈ s.lc.queue, ofClass .status x = true) →
        exec (.frameEnd chars framingError) s = .next
          (requeued t ((s.lc.queue.filter fun x => !ofClass .status x) ++ [newFrame (.status t.ownStatus) .ae]))) ∧
      t.ae.join = .joined ∧ t.ae.digest = digest ∧
      t.ae.committed = { loaded with unburnt := p.2 } ∧ t.ae.ownBurn = placedBurn p.1 s.address ∧
      t.ae.round = s.ae.round ∧ t.ae.journal = s.ae.journal ∧ t.ae.demand = s.ae.demand ∧
      t.ae.lastTier = s.ae.lastTier ∧ t.ae.hold = s.ae.hold ∧ t.ae.roundTimer = s.ae.roundTimer ∧
      t.ae.silenceTimer = .stopped ∧ t.ae.announced = s.ae.announced ∧
      t.ae.ownLive = false ∧ t.ae.cap = none ∧ t.ae.latched = s.smp.smoothed ∧
      t.ttu = { phase := .idle, attempts := 0, buffer := [], answerTimer := .stopped, stallTimer := .stopped } ∧
      t.vd.baseSetpoint =
        (match s.role with
          | .producer | .store => s.profileWord 2
          | .consumer => grantedDrawOf loaded.queue s.address
          | .flare => BitVec.ofNat 16 (placedBurn p.1 s.address)) ∧
      t.vd.lead = decide (t.ae.committed.duty = some s.address) ∧
      (let handed := withStack
        { h with ae := { h.ae with committed := loaded }, vd := { h.vd with baseSetpoint := t.vd.baseSetpoint } }
        h.ovs.stack
      let u := plantTripReconcile handed
      t.ovs = u.ovs ∧ t.vd = { u.vd with lead := t.vd.lead } ∧ t.ae.plantTrip = u.ae.plantTrip ∧
        (t.pp.flags.getLsbD 11 = true ↔ u.pp.flags.getLsbD 11 = true)) ∧
      (let raisedWhen := fun (n : Nat) (c : Prop) =>
        (t.pp.flags.getLsbD n = true ↔ s.pp.flags.getLsbD n = true ∨ c)
      raisedWhen 1
          (s.role = .consumer ∧ grantedTierOf before.queue s.address ≠ grantedTierOf loaded.queue s.address ∨
            s.role = .flare ∧ s.ae.ownBurn ≠ t.ae.ownBurn) ∧
        raisedWhen 5 True ∧ raisedWhen 7 (¬ (before.trips = 0 ↔ loaded.trips = 0)) ∧
        raisedWhen 8 (before.duty ≠ loaded.duty) ∧ raisedWhen 15 True ∧
        ∀ n ∈ [0, 2, 3, 4, 6, 9, 10, 12, 13, 14], raisedWhen n False) ∧
      t = { h with ae := t.ae, ttu := t.ttu, ovs := t.ovs, vd := t.vd, pp := { h.pp with flags := t.pp.flags } }

/-- R107, R110 to R113: a failure of the attempt between closes, by each of its causes (failsAttempt): the TTU idle, its
buffer clear, its timers stopped, the attempt count raised, TRANSFER-FAILED, and at the third REJOIN in the same step
(log 14). -/
def Obligations.AttemptFails : Prop :=
  ∀ (s u : State) (i : Instr), failsAttempt s u i → s.ttu.attempts < 3 →
    exec i s = .next (afterFailures (attemptFailed u))

/-- R113, R115: the third failure between closes, by each of its causes, leads to REJOIN in the same step (log 14),
which leaves what R115 lists. The REJOIN of a third failure at a close is in MarkClosesRound and WitnessedClose. -/
def Obligations.ThirdFailureRejoins : Prop :=
  ∀ (s u : State) (i : Instr), failsAttempt s u i → s.ttu.attempts = 2 → stackLaw s.ovs.stack →
    ∃ t, exec i s = .next t ∧
      t.ae.join = .listening ∧ t.ae.round = 0 ∧ t.ae.committed = clearedState ∧ t.ae.digest = 0 ∧
      t.ae.journal = [] ∧ t.ae.hold = [] ∧ t.ae.cap = none ∧ t.ae.ownLive = false ∧ t.ae.announced = false ∧
      t.ae.demand = { stage := .idle, outcome := .verdict .none } ∧ t.ae.plantTrip = s.ae.plantTrip ∧
      t.ae.lastTier = s.ae.lastTier ∧ t.ae.latched = s.ae.latched ∧ t.ae.roundTimer = .running u.now ∧
      t.ae.silenceTimer = (if lineBusy u.lc.line = true then .held else .running u.now) ∧
      t.ttu = { phase := .idle, attempts := 0, buffer := [], answerTimer := .stopped, stallTimer := .stopped } ∧
      t.lc = { u.lc with queue := [], onLine := none } ∧
      (∃ e ∈ t.ovs.stack, e.kind = .rejoinHold ∧ e.void = false) ∧ t.vd.lead = false ∧
      t.vd.baseSetpoint = (if s.role = .producer ∨ s.role = .store then s.profileWord 2 else 0) ∧
      t.pp.flags.getLsbD 6 = true ∧ t.pp.flags.getLsbD 15 = true ∧
      (∀ n, n ≠ 6 → n ≠ 11 → n ≠ 15 → t.pp.flags.getLsbD n = s.pp.flags.getLsbD n) ∧
      t.vd = { s.vd with baseSetpoint := t.vd.baseSetpoint, lead := t.vd.lead, target := t.vd.target } ∧
      t = { u with
            lc := t.lc, ae := t.ae, ttu := t.ttu, ovs := t.ovs, vd := t.vd, pp := { u.pp with flags := t.pp.flags } }

/-! Timers and the profile window. -/

/-- R37, R38, R136: at its expiry the round timer restarts, a JOINED or DIVERGED node offers a MARK behind the head
class, and REJOIN-HOLD counts the expiry; its target follows (TargetDuty). The MARK merges with one in the queue, on the
line as well as waiting (R30; log 28). At a full queue it displaces the newest ordinary frame or is refused
(FullQueueDisplaces), and where that fails the third attempt, REJOIN follows in the same step (log 14). -/
def Obligations.RoundTimerExpires : Prop :=
  ∀ (s : State) (since : Nat), s.ae.roundTimer = .running since → s.ttu.attempts < 3 →
    let now := max s.now (since + 1000000)
    let restarted := { s with now, ae := { s.ae with roundTimer := .running now } }
    let mark : QueuedFrame := { body := .mark, originator := .ae, tracked := false, collisions := 0 }
    let inRounds := (s.ae.join = .joined ∨ s.ae.join = .diverged) ∧ s.lc.muted = false
    let counted := fun (u : State) =>
      withStack u (s.ovs.stack.map fun e =>
        if e.kind = .rejoinHold ∧ e.void = false then { e with expiries := min 2 (e.expiries + 1) } else e)
    ((s.ae.join = .listening ∨ s.ae.join = .muted) → exec .roundTimerExpiry s = .next (counted restarted)) ∧
    (roomToSend s → (∀ q ∈ s.lc.queue, q.body ≠ .mark) →
      exec .roundTimerExpiry s = .next (counted (requeued restarted (behindHead mark (waitingFrames s.lc))))) ∧
    (inRounds → (∃ q ∈ s.lc.queue, q.body = .mark) → exec .roundTimerExpiry s = .next (counted restarted)) ∧
    (inRounds → (∀ q ∈ s.lc.queue, q.body ≠ .mark) → 8 ≤ s.lc.queue.length →
      (∀ q ∈ waitingFrames s.lc, ofClass .ordinary q = false) →
      exec .roundTimerExpiry s = .next (counted (discarded restarted))) ∧
    (inRounds → exec .roundTimerExpiry s = .next (afterFailures (counted (offerFrame mark restarted).2)))

/-- R123: a LISTENING node founds at the expiry of its silence timer: JOINED in round 1 with the cleared committed
state (log 26) and its digest, and then MARK, ANNOUNCE and STATUS offered in that order. The pending demand and the
last demanded tier (R68), the marks, the hold, and every flag but JOIN-CHANGE are kept. An ANNOUNCE or ASK that waits,
all that a LISTENING node's queue can hold (R33), stays in its place behind the MARK; at a full queue the frames are
offered as FullQueueDisplaces says. -/
def Obligations.SilenceTimerFounds : Prop :=
  ∀ (s : State) (since : Nat),
    s.ae.silenceTimer = .running since → s.ae.join = .listening →
    let now := max s.now (since + 3000000)
    let founded := raised
      (withStack
        { s with
          now
          lc := { s.lc with queue := s.lc.queue.map (unfollowed isAsk) }
          ttu := { phase := .idle, attempts := 0, buffer := [], answerTimer := .stopped, stallTimer := .stopped }
          ae :=
            { s.ae with
              join := .joined, round := 1, roundTimer := .running now, silenceTimer := .stopped, journal := []
              committed := clearedState, digest := crc16 (snapshotBody clearedState), ownBurn := 0, cap := none
              latched := s.smp.smoothed }
          vd :=
            { s.vd with
              baseSetpoint := if s.role = .producer ∨ s.role = .store then s.profileWord 2 else 0, lead := false } }
        s.ovs.stack)
      .joinChange
    let offered := fun (body : FrameBody) (u : State) => (offerFrame (newFrame body .ae) u).2
    exec .silenceTimerExpiry s = .next
      (offered (.status founded.ownStatus) (offered (.announce s.role) (offered .mark founded))) ∧
    (s.lc.muted = false → (∀ q ∈ s.lc.queue, listeningFrame q.body = true) → s.lc.queue.length + 3 ≤ 8 →
      exec .silenceTimerExpiry s = .next
        (requeued founded
          ([newFrame .mark .ae] ++ (waitingFrames s.lc).map (unfollowed isAsk) ++
            [newFrame (.announce s.role) .ae, newFrame (.status founded.ownStatus) .ae])))

/-- R118, R121: the profile window closes, at the expiry of its 2000 ms or at PROFILE-DONE: the period, the spans
(word 5 at every role: log 32), the levels and the last demanded tier from the profile, the base setpoint of R85,
LISTENING with both timers running, JOIN-CHANGE; the target follows the governing entry (TargetDuty). Outside the window
PROFILE-DONE is refused with SEQUENCE (R160). -/
def Obligations.ProfileWindowCloses : Prop :=
  ∀ s : State,
    let opened := s.ae.join = .profile ∧ s.pp.windowOpen = true
    (opened → exec .profileWindowExpiry s = .next (windowClosed { s with now := max s.now 2000000 })) ∧
    ∀ w, Held s w → commandCode w = 0x10 →
      (opened → exec .profileDone s = .next (answered (windowClosed s) (acceptedReply 0x10 0 0))) ∧
      (¬ opened → exec .profileDone s = .next (answered s (refusedReply 0x10 .sequence)))

/-- R118, R119, R160: a PROFILE-WORD in the range of its index is stored and its position marked written; one outside is
refused with PARAMETER, and any word outside the window with SEQUENCE. A word that leaves all twenty written closes the
window as well. -/
def Obligations.ProfileWordStored : Prop :=
  ∀ (s : State) (w : Word32), Held s w → commandCode w = 0x0F →
    let index := argument1 w
    let value := argumentWord23 w
    let stored :=
      { s with pp := { s.pp with image := s.pp.image.set index value, written := s.pp.written.set index true } }
    (¬ (s.ae.join = .profile ∧ s.pp.windowOpen = true) →
      exec .profileWord s = .next (answered s (refusedReply 0x0F .sequence))) ∧
    (s.ae.join = .profile → s.pp.windowOpen = true → ¬ wordFits s.pp.image index value →
      exec .profileWord s = .next (answered s (refusedReply 0x0F .parameter))) ∧
    (s.ae.join = .profile → s.pp.windowOpen = true → wordFits s.pp.image index value →
      (∃ b ∈ stored.pp.written, b = false) →
      exec .profileWord s = .next (answered stored (acceptedReply 0x0F 0 0))) ∧
    (s.ae.join = .profile → s.pp.windowOpen = true → wordFits s.pp.image index value →
      (∀ b ∈ stored.pp.written, b = true) →
      exec .profileWord s = .next (answered (windowClosed stored) (acceptedReply 0x0F 0 0)))

/-! Event inputs. -/

/-- R143, R144, R149: a pin takes a level. A falling edge at IN0, a rising edge at IN1 or IN2 sets the latch, or is lost
and counted to 15 with INPUT-LOST where the latch is set. IN3 feeds its filter. -/
def Obligations.InputEdges : Prop :=
  ∀ (s : State) (level : Bool),
    let next := fun (counts : Bool) (i : EventInput) =>
      { pin := level, reference := level, latch := i.latch || counts,
        lost := if counts = true ∧ i.latch = true ∧ i.lost < 15 then i.lost + 1 else i.lost : EventInput }
    let lost := fun (counts : Bool) (i : EventInput) (u : State) =>
      if counts = true ∧ i.latch = true then raised u .inputLost else u
    let esd := s.eiu.esd.reference && !level
    let trip := !s.eiu.trip.reference && level
    let permit := !s.eiu.permit.reference && level
    exec (.inputEdge .esd level) s =
      .next (lost esd s.eiu.esd { s with eiu := { s.eiu with esd := next esd s.eiu.esd } }) ∧
    exec (.inputEdge .trip level) s =
      .next (lost trip s.eiu.trip { s with eiu := { s.eiu with trip := next trip s.eiu.trip } }) ∧
    exec (.inputEdge .permit level) s =
      .next (lost permit s.eiu.permit { s with eiu := { s.eiu with permit := next permit s.eiu.permit } }) ∧
    (s.eiu.aux.pin = level → exec (.inputEdge .aux level) s = .next s) ∧
    (s.eiu.aux.pin ≠ level → (s.role ≠ .flare ∨ level = true) →
      exec (.inputEdge .aux level) s = .next
        { s with eiu := { s.eiu with aux := { s.eiu.aux with pin := level }, wait := .running s.now } }) ∧
    (s.eiu.aux.pin = true → level = false → s.role = .flare → s.eiu.aux.reference = false →
      exec (.inputEdge .aux level) s = .next
        { s with eiu := { s.eiu with aux := { s.eiu.aux with pin := false }, wait := .stopped } }) ∧
    (s.eiu.aux.pin = true → level = false → s.role = .flare → s.eiu.aux.reference = true →
      exec (.inputEdge .aux level) s = .next
        (lost true s.eiu.aux { s with eiu := { s.eiu with aux := next true s.eiu.aux, wait := .stopped } }))

/-- R146: an ESD event taken: ESD-ISOLATE pushed but at a flare (DeviceEntries), a TRIP in the head class or, where
the LC refuses it, in the hold; the trip-outstanding mark set. At a full queue the TRIP displaces the newest ordinary
frame (FullQueueDisplaces), and where that fails the third attempt, REJOIN follows in the same step (log 14). -/
def Obligations.EsdEventTaken : Prop :=
  ∀ s : State, s.eiu.esd.latch = true → s.ttu.attempts < 3 →
    let p := if s.role = .flare then s else devicePush .esdIsolate s
    let taken := { p with eiu := { s.eiu with esd := { s.eiu.esd with latch := false }, tripOutstanding := true } }
    let held := { taken with ae := { taken.ae with hold := s.ae.hold ++ [.trip] } }
    let trip : QueuedFrame := { body := .trip, originator := .eiu, tracked := false, collisions := 0 }
    let inRounds := (s.ae.join = .joined ∨ s.ae.join = .diverged) ∧ s.lc.muted = false
    (roomToSend s →
      exec .esdEvent s = .next (requeued taken (behindHead trip (waitingFrames s.lc)))) ∧
    ((s.ae.join = .profile ∨ s.ae.join = .listening ∨ s.ae.join = .muted) → exec .esdEvent s = .next held) ∧
    (inRounds → s.lc.queue.length = 8 → (∀ q ∈ waitingFrames s.lc, ofClass .ordinary q = false) →
      exec .esdEvent s = .next (discarded held)) ∧
    (inRounds → s.lc.queue.length = 8 → (∃ q ∈ waitingFrames s.lc, ofClass .ordinary q = true) →
      exec .esdEvent s = .next (afterFailures (offerFrame trip taken).2))

/-- R147: a TRIP event taken: TRIP-ISOLATE at every role; at a consumer a YIELD 0 at the tail, where the LC takes it.
One that the full queue refuses is a discard and raises NOT-TAKEN (R31); one that the join state refuses leaves
nothing (R33). -/
def Obligations.TripEventTaken : Prop :=
  ∀ s : State, s.eiu.trip.latch = true → s.eiu.esd.latch = false →
    let p := devicePush .tripIsolate { s with eiu := { s.eiu with trip := { s.eiu.trip with latch := false } } }
    let inRounds := (s.ae.join = .joined ∨ s.ae.join = .diverged) ∧ s.lc.muted = false
    (s.role ≠ .consumer → exec .tripEvent s = .next p) ∧
    (s.role = .consumer → roomToSend s →
      exec .tripEvent s = .next
        (requeued p
          (waitingFrames s.lc ++ [{ body := .yield 0, originator := .eiu, tracked := false, collisions := 0 }]))) ∧
    (s.role = .consumer → inRounds → 8 ≤ s.lc.queue.length →
      exec .tripEvent s = .next (raised (discarded p) .notTaken)) ∧
    ((s.ae.join = .profile ∨ s.ae.join = .listening ∨ s.ae.join = .muted) → exec .tripEvent s = .next p)

/-- R148: a PERMIT event taken: ESD-ISOLATE and TRIP-ISOLATE withdrawn, the own TRIP out of the hold, the mark clear,
START-HOLD withdrawn under the conditions of R126; then the CLEAR that is due, in the head class, and at a consumer
with AUTO-RESUME the CLAIM at the tail. A CLEAR that the LC refuses goes to the hold; a CLAIM that it refuses is lost,
at a full queue as a discard with NOT-TAKEN (R31). At a full queue the CLEAR displaces the newest ordinary frame
(FullQueueDisplaces), and where that fails the third attempt, REJOIN follows in the same step (log 14). -/
def Obligations.PermitEventTaken : Prop :=
  ∀ s : State, s.eiu.permit.latch = true → s.eiu.esd.latch = false → s.eiu.trip.latch = false → s.ttu.attempts < 3 →
    let due := s.ae.committed.trips.getLsbD s.address.val = true ∨ s.eiu.tripOutstanding = true
    let resumes := s.role = .consumer ∧ (s.profileWord 0).getLsbD 1 = true
    let inRounds := (s.ae.join = .joined ∨ s.ae.join = .diverged) ∧ s.lc.muted = false
    let unheld :=
      deviceWithdraw .tripIsolate (deviceWithdraw .esdIsolate
        { s with
          eiu := { s.eiu with permit := { s.eiu.permit with latch := false }, tripOutstanding := false }
          ae := { s.ae with hold := s.ae.hold.filter fun h => decide (h ≠ .trip) } })
    let freed := if s.ae.join = .joined ∧ s.ae.ownLive = true ∧ s.ownEntry.presence = .live then
      deviceWithdraw .startHold unheld else unheld
    let held := { freed with ae := { freed.ae with hold := freed.ae.hold ++ [.clear s.address] } }
    let clear : QueuedFrame := { body := .clear s.address, originator := .eiu, tracked := false, collisions := 0 }
    let claim : QueuedFrame :=
      { body := .claim
          { tier := s.ae.lastTier, minMethane := (s.profileWord 11).toNat, draws := imageDraws s.pp.image }
        originator := .eiu, tracked := false, collisions := 0 }
    let cleared := if due then behindHead clear (waitingFrames s.lc) else waitingFrames s.lc
    let lost := fun (u : State) => if resumes then raised (discarded u) .notTaken else u
    (¬ due → ¬ resumes → exec .permitEvent s = .next freed) ∧
    (inRounds → s.lc.queue.length + (if due then 1 else 0) + (if resumes then 1 else 0) ≤ 8 →
      exec .permitEvent s = .next (requeued freed (if resumes then cleared ++ [claim] else cleared))) ∧
    (inRounds → resumes → s.lc.queue.length + (if due then 1 else 0) = 8 →
      exec .permitEvent s = .next (lost (requeued freed cleared))) ∧
    (inRounds → due → s.lc.queue.length = 8 → (∀ q ∈ waitingFrames s.lc, ofClass .ordinary q = false) →
      exec .permitEvent s = .next (lost (discarded held))) ∧
    (inRounds → due → s.lc.queue.length = 8 → (∃ q ∈ waitingFrames s.lc, ofClass .ordinary q = true) →
      exec .permitEvent s = .next
        (afterFailures
          (if resumes then (offerFrame claim (offerFrame clear freed).2).2 else (offerFrame clear freed).2))) ∧
    ((s.ae.join = .profile ∨ s.ae.join = .listening ∨ s.ae.join = .muted) →
      exec .permitEvent s = .next (if due then held else freed))

/-- R149: the filter of IN3 at its end, and an AUX event taken: AUX-CHANGE, and at a flare the flame flag. -/
def Obligations.AuxFilterAndEvent : Prop :=
  ∀ s : State,
    let counted := fun (now : Nat) =>
      let i := s.eiu.aux
      if i.pin = i.reference then { s with now, eiu := { s.eiu with wait := .stopped } }
      else if i.latch = true then
        raised
          { s with
            now
            eiu :=
              { s.eiu with
                wait := .stopped
                aux := { i with reference := i.pin, lost := if i.lost < 15 then i.lost + 1 else i.lost } } }
          .inputLost
      else { s with now, eiu := { s.eiu with wait := .stopped, aux := { i with reference := i.pin, latch := true } } }
    (∀ since, s.eiu.wait = .running since → s.role ≠ .flare →
      exec .in3DebounceExpiry s = .next (counted (max s.now (since + 10000)))) ∧
    (∀ since, s.eiu.wait = .running since → s.role = .flare →
      exec .flameProvingExpiry s = .next (counted (max s.now (since + 2000000)))) ∧
    (s.eiu.aux.latch = true → s.eiu.esd.latch = false → s.eiu.trip.latch = false → s.eiu.permit.latch = false →
      exec .auxEvent s = .next
        (raised
          { s with
            eiu :=
              { s.eiu with
                aux := { s.eiu.aux with latch := false }
                flame := if s.role = .flare then s.eiu.aux.reference else s.eiu.flame } }
          .auxChange))

/-! Override Stack, valve and Sampler. -/

/-- R131, R139, R141: the target duty follows the governing entry at every stack change, and SHUT the isolating level
at once; the governing kind is that of the uppermost isolating entry, else of the governing entry, else BASE. While an
isolating entry governs, a converted REJOIN-HOLD (R132) among them, the target stands (log 11). -/
def Obligations.TargetDuty : Prop :=
  ∀ (s : State) (stack : List OverrideEntry),
    let t := withStack s stack
    let setpoint := s.vd.baseSetpoint.toNat
    let capacity := (s.profileWord 2).toNat
    t = { s with ovs := { stack }, vd := { s.vd with target := t.vd.target } } ∧
    (t.shut = false ↔ ∃ e ∈ stack, isolatesNow e) ∧
    (∀ above e below, stack = above ++ e :: below → isolatesNow e → (∀ x ∈ above, ¬ isolatesNow x) →
      governingKind stack = .override e.kind) ∧
    ((∀ x ∈ stack, ¬ isolatesNow x) →
      (∀ above e below, stack = above ++ e :: below → e.void = false → (∀ x ∈ above, x.void = true) →
        governingKind stack = .override e.kind) ∧
      ((∀ x ∈ stack, x.void = true) → governingKind stack = .base)) ∧
    (stack = [] → t.vd.target.toNat = min 1023 (setpoint * 1023 / capacity)) ∧
    (∀ e rest, stack = e :: rest → e.void = false →
      (e.kind = .limit → t.vd.target.toNat = min 1023 (min setpoint e.value.toNat * 1023 / capacity)) ∧
      (e.kind = .hold → t.vd.target = e.captured) ∧
      (e.kind = .rejoinHold → e.expiries < 2 → t.vd.target = e.captured) ∧
      (e.kind = .rejoinHold → 2 ≤ e.expiries → t.vd.target = s.vd.target) ∧
      (e.kind = .fixed → t.vd.target.toNat = min 1023 e.value.toNat) ∧
      (e.kind ∈ [OverrideKind.startHold, .esdIsolate, .tripIsolate, .plantTripIsolate, .isolate] →
        t.vd.target = s.vd.target))

/-- R132, R134, R135, R137: a device's push of an entry of its kind, with the room it makes, and its withdrawal; R76:
the plant trip's entry at a consumer; R14, R127, R128: the own-presence-LIVE notice. The target follows each change
(TargetDuty). -/
def Obligations.DeviceEntries : Prop :=
  ∀ s : State,
    let stack := s.ovs.stack
    (∀ kind, panelKind kind = false →
      let present := ∃ e ∈ stack, e.kind = kind ∧ e.void = false
      let placed := fun (below : List OverrideEntry) => withStack s (deviceEntry s kind below :: below)
      (present → devicePush kind s = s) ∧
      (¬ present → (∃ e ∈ stack, e.kind = kind) →
        devicePush kind s = placed (stack.filter fun e => decide (e.kind ≠ kind))) ∧
      ((∀ e ∈ stack, e.kind ≠ kind) →
        (stack.length < 5 → devicePush kind s = placed stack) ∧
        (∀ above e below, stack = above ++ e :: below → 5 ≤ stack.length → e.void = true →
          (∀ x ∈ below, x.void = false) → devicePush kind s = placed (above ++ below)) ∧
        (∀ above e below, stack = above ++ e :: below → 5 ≤ stack.length → panelKind e.kind = true →
          (∀ x ∈ stack, x.void = false) → (∀ x ∈ below, panelKind x.kind = false) →
          devicePush kind s = raised (placed (above ++ below)) .stackDrop)) ∧
      (¬ present → deviceWithdraw kind s = s) ∧
      ∀ above e below, stackLaw stack → stack = above ++ e :: below → e.kind = kind → e.void = false →
        (∀ x ∈ above, x.kind = kind → x.void = true) →
        deviceWithdraw kind s =
          withStack s (if above = [] then below.dropWhile (·.void) else above ++ { e with void := true } :: below)) ∧
    (s.role ≠ .consumer → plantTripReconcile s = s) ∧
    (s.role = .consumer →
      (s.ae.committed.trips ≠ 0 → s.ae.plantTrip = false →
        plantTripReconcile s = devicePush .plantTripIsolate { s with ae := { s.ae with plantTrip := true } }) ∧
      (s.ae.committed.trips = 0 → s.ae.plantTrip = true →
        plantTripReconcile s = deviceWithdraw .plantTripIsolate { s with ae := { s.ae with plantTrip := false } }) ∧
      ((s.ae.committed.trips ≠ 0 ↔ s.ae.plantTrip = true) → plantTripReconcile s = s)) ∧
    (s.ownEntry.presence = .live → s.ae.ownLive = false →
      let freed := deviceWithdraw .rejoinHold { s with ae := { s.ae with ownLive := true } }
      ((s.profileWord 0).getLsbD 0 = true → ownLiveNotice s = deviceWithdraw .startHold freed) ∧
      ((s.profileWord 0).getLsbD 0 = false → ownLiveNotice s = freed)) ∧
    ((s.ownEntry.presence ≠ .live ∨ s.ae.ownLive = true) → ownLiveNotice s = s)

/-- R140, R151, R152: a valve period starts as the one before it ends, at duty 0 while isolating is present and else
at the target, and VOUT is asserted for duty / 1023 of it; a scan starts and completes, its codes enter the history,
and the smoothed values of the last eight scans follow. -/
def Obligations.PeriodAndScan : Prop :=
  ∀ s : State,
    exec .valvePeriodStart s = .next
      { s with
        now := max s.now (s.vd.periodStart + 1000 * s.vd.period)
        vd :=
          { s.vd with
            applied := if isolatingPresent s.ovs.stack = true then 0 else s.vd.target
            period := s.vd.nextPeriod
            periodStart := s.vd.periodStart + 1000 * s.vd.period } } ∧
    (s.vout = true ↔ (s.now - s.vd.periodStart) * 1023 < s.vd.applied.toNat * (1000 * s.vd.period)) ∧
    (s.vd.applied = 0 → s.vout = false) ∧
    (s.vd.applied = 1023 → s.vd.periodStart ≤ s.now → s.now < s.vd.periodStart + 1000 * s.vd.period →
      s.vout = true) ∧
    (s.smp.scanning = none →
      exec .scanStart s = .next
        { s with
          now := max s.now s.smp.nextScan
          smp := { s.smp with scanning := some s.smp.nextScan, nextScan := s.smp.nextScan + 25000 } }) ∧
    ∀ (since : Nat) (codes : ScanCodes), s.smp.scanning = some since →
      let history := (if s.smp.history.length < 8 then s.smp.history else s.smp.history.tail) ++ [codes]
      let smoothed := fun (channel : List Nat) (span : Nat) =>
        let valid := channel.filter fun c => decide (700 ≤ c ∧ c ≤ 4000)
        if channel.length < 8 ∨ 4 ≤ channel.length - valid.length then (none : Option Word16)
        else some (BitVec.ofNat 16 (min span ((valid.sum / valid.length - 819) * span / 3276)))
      let after : Channels :=
        { ch0 := smoothed (history.map (·.ch0.toNat)) s.smp.span0.toNat
          ch1 := smoothed (history.map (·.ch1.toNat)) 100
          ch2 := smoothed (history.map (·.ch2.toNat)) s.smp.span2.toNat
          ch3 := smoothed (history.map (·.ch3.toNat)) s.smp.span3.toNat }
      let completed :=
        { s with now := max s.now (since + 272), smp := { s.smp with history, scanning := none, smoothed := after } }
      let lost := fun (before after : Option Word16) => before ≠ none ∧ after = none
      exec (.scanComplete codes) s = .next
        (if lost s.smp.smoothed.ch0 after.ch0 ∨ lost s.smp.smoothed.ch2 after.ch2 ∨
            (s.role = .producer ∧ lost s.smp.smoothed.ch1 after.ch1) ∨
            (s.role = .store ∧ lost s.smp.smoothed.ch3 after.ch3) then raised completed .sampleInvalid
          else completed)

/-! The Panel Port. -/

/-- R155 to R157: the word an exchange shifts out, and what its end does. A void exchange sets the sequence mark. A
good one empties a reply read and clears the marks; the handler then takes a held command it can take (in the rows of
the panel commands); the word that arrived goes to the empty register or is overrun. A CANCEL is acted on before or
after that taking where the exchange read the reply that blocked it, else after (log 6), and its outcome depends on
whether a command is still held; data byte 3 of an outcome is log 33. A CANCEL whose exchange ends with an outcome
pending is discarded with the overrun mark, though the same end moves the outcome into the buffer (log 36). A word that
arrives as a held RESTART is performed is discarded while the reset is in progress (R160; log 34). An exchange in
progress at hardware reset is void (R162; log 18). -/
def Obligations.ExchangeAndCancel : Prop :=
  ∀ s : State,
    let marks : Word32 := if s.pp.sequenceMark = true ∨ s.pp.overrunMark = true then 0x40000000 else 0
    (s.pp.exchange = .none →
      exec .exchangeStart s = .next
        { s with
          pp :=
            { s.pp with
              exchange :=
                match s.pp.reply with
                | some r => .shifting (r ||| 0x80000000 ||| marks) true
                | none => .shifting marks false } }) ∧
    (∀ word isReply edges w first, s.pp.exchange = .shifting word isReply → edges ≠ 32 →
      exec (.exchangeEnd edges w first) s = .next
        { s with pp := { s.pp with sequenceMark := true, exchange := .none } }) ∧
    (∀ word isReply w first, s.pp.exchange = .shifting word isReply →
      let u :=
        { s with
          pp :=
            { s.pp with
              reply := if isReply = true then s.pp.outcome else s.pp.reply
              outcome := if isReply = true then none else s.pp.outcome
              sequenceMark := false
              overrunMark := false
              exchange := .none } }
      let ends := exec (.exchangeEnd 32 w first) s
      (commandCode w = 0x11 → s.pp.outcome ≠ none →
        ends = .next { u with pp := { u.pp with overrunMark := true } }) ∧
      ((∀ h, ¬ Held u h) →
        (commandCode w = 0x11 → s.pp.outcome = none → ends = exec .cancel u) ∧
        (commandCode w ≠ 0x11 → u.pp.holding = none →
          ends = .next { u with pp := { u.pp with holding := some w } }) ∧
        (commandCode w ≠ 0x11 → u.pp.holding ≠ none →
          ends = .next { u with pp := { u.pp with overrunMark := true } })) ∧
      ∀ h i t, Held u h →
        ((i, commandCode h) ∈ panelRows ∨ i = .illegalCommandCode ∧ 0x11 < commandCode h) →
        exec i u = .next t →
        let resets := i = .restart ∧ s.ae.join ≠ .profile
        (commandCode w = 0x11 → s.pp.outcome = none →
          (isReply = true → first = false → ends = exec .cancel u) ∧
          ((isReply = false ∨ first = true) → ends = exec .cancel t)) ∧
        (commandCode w ≠ 0x11 → (¬ resets ∨ first = true) →
          ends = .next { t with pp := { t.pp with holding := some w } }) ∧
        (commandCode w ≠ 0x11 → resets → first = false → ends = .next t)) ∧
    (∀ edges w first, s.pp.exchange = .voided →
      exec (.exchangeEnd edges w first) s = .next
        { s with pp := { s.pp with sequenceMark := true, exchange := .none } }) ∧
    (∀ h, s.pp.outcome = none → s.pp.holding = some h →
      exec .cancel s = .next
        { s with
          pp :=
            { s.pp with
              holding := none
              reply := match s.pp.reply with
                | none => some (wordOf 0x20 0x01 (byteOf (commandCode h)) 0)
                | some r => some r
              outcome := match s.pp.reply with
                | none => none
                | some _ => some (wordOf 0x20 0x01 (byteOf (commandCode h)) 0) } }) ∧
    (s.pp.outcome = none → s.pp.holding = none →
      exec .cancel s = .next
        { s with
          pp :=
            { s.pp with
              reply := match s.pp.reply with
                | none => some (wordOf 0x20 0x02 0x11 0)
                | some r => some r
              outcome := match s.pp.reply with
                | none => none
                | some _ => some (wordOf 0x20 0x02 0x11 0) } }) ∧
    (∀ o, s.pp.outcome = some o →
      exec .cancel s = .next { s with pp := { s.pp with overrunMark := true } })

/-- R15, R35, R67, R144, R153, R159, R161, R166, R167: the attention lines; the reading commands, ACK, MASK, and a
code that names no command: one reply, and no change but WINDOW's, READ's, ACK's and MASK's own. The value bytes of
STATUS pages 1 to 4 for an INVALID channel are free (log 10); a slot that the role does not hold reads as 0 with age
0, or age 3 where ABSENT (log 16); the code field of an ILLEGAL reply is the code's low five bits (log 27). -/
def Obligations.ReadingCommands : Prop :=
  ∀ s : State,
    (s.attu = true ↔ ∃ n < 16, s.pp.flags.getLsbD n = true ∧ s.pp.masks.getLsbD n = false ∧
      s.pp.levels.getLsbD n = true) ∧
    (s.attr = true ↔ ∃ n < 16, s.pp.flags.getLsbD n = true ∧ s.pp.masks.getLsbD n = false ∧
      s.pp.levels.getLsbD n = false) ∧
    ∀ w, Held s w →
    let a := argument1 w
    let reply := fun (code d1 : Nat) (d2 d3 : Byte) => wordOf 0 (byteOf (code + 32 * d1)) d2 d3
    let value := fun (code d1 : Nat) (v : Word16) => reply code d1 (v.extractLsb' 8 8) (v.extractLsb' 0 8)
    let refused := fun (code : Nat) (status : Byte) => wordOf status (byteOf (code % 32)) 0 0
    (commandCode w = 0x00 →
      (∀ c, counterOf s.lc.counters a = some c → exec .nop s = .next (answered s (value 0x00 0 c))) ∧
      (5 < a → exec .nop s = .next (answered s (refused 0x00 0x08)))) ∧
    (commandCode w = 0x01 →
      (a = 0 → exec .status s = .next (answered s (reply 0x01 (joinStateCode s.ae.join)
        (byteOf (presenceCode s.ownEntry.presence + 4 * governingCode (governingKind s.ovs.stack)))
        (s.ae.round.extractLsb' 0 8)))) ∧
      (∀ v, [s.ae.latched.ch0, s.ae.latched.ch1, s.ae.latched.ch2, s.ae.latched.ch3][a - 1]? = some (some v) → 1 ≤ a →
        exec .status s = .next (answered s (value 0x01 1 v))) ∧
      ([s.ae.latched.ch0, s.ae.latched.ch1, s.ae.latched.ch2, s.ae.latched.ch3][a - 1]? = some none → 1 ≤ a →
        ∃ v, exec .status s =
          .next (answered { s with freeCount := s.freeCount + 1 } (value 0x01 0 v))) ∧
      (a = 5 → exec .status s = .next (answered s (reply 0x01 0 (byteOf (16 * s.eiu.esd.lost + s.eiu.trip.lost))
        (byteOf (16 * s.eiu.permit.lost + s.eiu.aux.lost))))) ∧
      (5 < a → exec .status s = .next (answered s (refused 0x01 0x08)))) ∧
    (commandCode w = 0x02 →
      (a % 2 = 0 → (∀ q ∈ s.ae.committed.queue, q.claimant ≠ s.address) →
        exec .contract s = .next (answered s (reply 0x02 0 0 0))) ∧
      (∀ ahead q behind, a % 2 = 0 → s.ae.committed.queue = ahead ++ q :: behind → q.claimant = s.address →
        (∀ x ∈ ahead, x.claimant ≠ s.address) → q.requested < 8 → q.granted < 8 →
        exec .contract s = .next (answered s (reply 0x02 0
          (byteOf (q.requested + 8 * q.granted + 64 * entryStateCode q.state)) (byteOf (ahead.length + 1))))) ∧
      (a % 2 = 1 → exec .contract s = .next (answered s (reply 0x02 0
        (byteOf (verdictCode s.ownEntry.verdict + 16 * demandStageCode s.ae.demand.stage))
        (byteOf (outcomeCode s.ae.demand.outcome)))))) ∧
    (commandCode w = 0x03 →
      (∀ n : Address, a = n.val → exec .window s = .next
        (answered { s with pp := { s.pp with windowIndex := n, part := 0 } } (reply 0x03 0 0 0))) ∧
      (15 < a → exec .window s = .next (answered s (refused 0x03 0x08)))) ∧
    (commandCode w = 0x04 →
      let c := s.ae.committed
      let e := entryOf c.table s.pp.windowIndex
      let reads := fun (r : Word32) => exec .read s = .next (answered { s with pp := { s.pp with part := s.pp.part + 1 } } r)
      let slots := (roleSlots e.role).length
      let slot := fun (k : Nat) (flag : Bool) =>
        value 0x04
          ((if e.presence = .absent then 3 else if k < slots then (entryFigure e k).age % 4 else 0) +
            (if flag then 4 else 0))
          (if k < slots then (entryFigure e k).value else 0)
      (s.pp.part = 0 → reads (reply 0x04 (roleCode e.role)
        (byteOf (presenceCode e.presence + 4 * (e.heard % 2) + 8 * (e.miss % 4) + (if e.flame then 32 else 0) +
          (if e.dutyAllowed then 64 else 0) + (if c.trips.getLsbD s.pp.windowIndex.val then 128 else 0)))
        (byteOf (verdictCode e.verdict + 16 * governingCode e.governing)))) ∧
      (s.pp.part = 1 → reads (slot 0 c.offer)) ∧
      (s.pp.part = 2 → reads (slot 1 c.flaring)) ∧
      (s.pp.part = 3 → reads (value 0x04 (if c.duty = some s.pp.windowIndex then 1 else 0)
        (BitVec.ofNat 16 (min 65535 c.unburnt))))) ∧
    (commandCode w = 0x05 →
      (a % 2 = 0 → exec .events s = .next (answered s (value 0x05 0 s.pp.flags))) ∧
      (a % 2 = 1 → exec .events s = .next (answered s (value 0x05 0 s.pp.masks)))) ∧
    (commandCode w = 0x06 →
      let flags := s.pp.flags &&& ~~~(w.extractLsb' 8 16)
      exec .ack s = .next (answered { s with pp := { s.pp with flags } } (value 0x06 0 flags))) ∧
    (commandCode w = 0x07 →
      exec .mask s = .next
        (answered { s with pp := { s.pp with masks := w.extractLsb' 8 16 } } (value 0x07 0 (w.extractLsb' 8 16)))) ∧
    (0x11 < commandCode w → exec .illegalCommandCode s = .next (answered s (refused (commandCode w) 0x04)))

/-- R64, R65, R160: DEMAND, its checks in order, and the CLAIM it puts at the tail. At a full queue the LC refuses the
CLAIM: the reply is BUSY and the last demanded tier is set all the same (log 15). -/
def Obligations.DemandPassed : Prop :=
  ∀ (s : State) (w : Word32), Held s w → commandCode w = 0x08 →
    let tier := argument1 w
    let inRounds := s.ae.join = .joined ∨ s.ae.join = .diverged
    let refused := fun (u : State) (r : RefusalStatus) => answered u (refusedReply 0x08 r)
    let claim : FrameBody :=
      .claim { tier, minMethane := (s.profileWord 11).toNat, draws := imageDraws s.pp.image }
    (s.role ≠ .consumer → exec .demand s = .next (refused s .illegal)) ∧
    (s.role = .consumer → (¬ inRounds ∨ s.ownEntry.presence ≠ .live) → exec .demand s = .next (refused s .notJoined)) ∧
    (s.role = .consumer → inRounds → s.ownEntry.presence = .live →
      ((imageDraws s.pp.image).length < tier → exec .demand s = .next (refused s .parameter)) ∧
      (tier ≤ (imageDraws s.pp.image).length → s.ae.demand.stage ≠ .idle →
        exec .demand s = .next (refused s .busy)) ∧
      (tier ≤ (imageDraws s.pp.image).length → s.ae.demand.stage = .idle → s.lc.muted = false →
        (s.lc.queue.length < 8 →
          exec .demand s = .next
            (answered
              (requeued
                { s with
                  ae := { s.ae with lastTier := tier, demand := { stage := .queued, outcome := s.ae.demand.outcome } } }
                (waitingFrames s.lc ++ [{ body := claim, originator := .ae, tracked := true, collisions := 0 }]))
              (acceptedReply 0x08 0 0))) ∧
        (8 ≤ s.lc.queue.length →
          exec .demand s = .next
            (refused
              (raised
                { s with
                  ae := { s.ae with lastTier := tier }
                  lc :=
                    { s.lc with
                      counters := { s.lc.counters with discards := countUp s.lc.counters.discards } } }
                .notTaken)
              .busy))))

/-- R133 to R135, R137: PUSH with its checks, onto a stack with room and onto a full one; POP of the newest non-VOID
PANEL entry. -/
def Obligations.PushAndPop : Prop :=
  ∀ (s : State) (w : Word32), Held s w →
    let v := argumentWord23 w
    (commandCode w = 0x09 →
      (3 < argument1 w → exec .push s = .next (answered s (refusedReply 0x09 .illegal))) ∧
      (argument1 w = 2 → (s.profileWord 19).toNat < v.toNat →
        exec .push s = .next (answered s (refusedReply 0x09 .parameter))) ∧
      ∀ kind value, (argument1 w, kind, value) ∈ [(0, OverrideKind.limit, v), (1, .hold, 0), (2, .fixed, v),
          (3, .isolate, 0)] → (kind = .fixed → v.toNat ≤ (s.profileWord 19).toNat) →
        let pushed := fun (stack : List OverrideEntry) =>
          withStack s
            ({ kind, value, round := s.ae.round, void := false, expiries := 0,
               captured := if kind = .hold ∧ isolatingPresent stack = false then s.vd.applied else 0 } :: stack)
        (s.ovs.stack.length < 5 →
          exec .push s = .next (answered (pushed s.ovs.stack) (acceptedReply 0x09 0 0))) ∧
        (∀ above e below, s.ovs.stack = above ++ e :: below → 5 ≤ s.ovs.stack.length → e.void = true →
          (∀ x ∈ below, x.void = false) →
          exec .push s = .next (answered (pushed (above ++ below)) (acceptedReply 0x09 0 0))) ∧
        (∀ above e below, s.ovs.stack = above ++ e :: below → 5 ≤ s.ovs.stack.length → panelKind e.kind = true →
          (∀ x ∈ s.ovs.stack, x.void = false) → (∀ x ∈ below, panelKind x.kind = false) →
          exec .push s = .next (answered (raised (pushed (above ++ below)) .stackDrop) (acceptedReply 0x09 0 0))) ∧
        (5 ≤ s.ovs.stack.length → (∀ x ∈ s.ovs.stack, x.void = false ∧ panelKind x.kind = false) →
          exec .push s = .next (answered (raised s .stackDrop) (refusedReply 0x09 .parameter)))) ∧
    (commandCode w = 0x0A → stackLaw s.ovs.stack →
      ((∀ x ∈ s.ovs.stack, panelKind x.kind = true → x.void = true) →
        exec .pop s = .next (answered s (refusedReply 0x0A .sequence))) ∧
      ∀ above e below, s.ovs.stack = above ++ e :: below → panelKind e.kind = true → e.void = false →
        (∀ x ∈ above, panelKind x.kind = true → x.void = true) →
        exec .pop s = .next
          (answered
            (withStack s
              (if above = [] then below.dropWhile (·.void) else above ++ { e with void := true } :: below))
            (acceptedReply 0x0A (pushCode e.kind) e.round)))

/-- R95, R160: HANDOVER and TRIP-CLEAR, their checks in order, and the DUTY frame at the tail or the CLEAR in the head
class. Where the CLEAR displaces the ASK of the third attempt at a full queue, REJOIN follows in the same step (log
14). -/
def Obligations.HandoverAndTripClear : Prop :=
  ∀ (s : State) (w : Word32), Held s w →
    let inRounds := s.ae.join = .joined ∨ s.ae.join = .diverged
    (commandCode w = 0x0B →
      (¬ inRounds → exec .handover s = .next (answered s (refusedReply 0x0B .notJoined))) ∧
      (inRounds → (s.role ≠ .flare ∨ s.ae.committed.duty ≠ some s.address) →
        exec .handover s = .next (answered s (refusedReply 0x0B .illegal))) ∧
      (inRounds → s.role = .flare → s.ae.committed.duty = some s.address →
        (1 < argument1 w → exec .handover s = .next (answered s (refusedReply 0x0B .parameter))) ∧
        (roomToSend s → ∀ action, (argument1 w, action) ∈ [(0, DutyAction.offer), (1, .withdraw)] →
          exec .handover s = .next
            (answered
              (requeued s
                (waitingFrames s.lc ++ [{ body := .duty action, originator := .ae, tracked := false, collisions := 0 }]))
              (acceptedReply 0x0B 0 0))) ∧
        (s.lc.muted = false → 8 ≤ s.lc.queue.length → argument1 w ≤ 1 →
          exec .handover s = .next
            (answered (raised (discarded s) .notTaken) (refusedReply 0x0B .busy))))) ∧
    (commandCode w = 0x0C → s.ttu.attempts < 3 →
      (15 < argument1 w → exec .tripClear s = .next (answered s (refusedReply 0x0C .parameter))) ∧
      (argument1 w < 16 → ¬ inRounds → exec .tripClear s = .next (answered s (refusedReply 0x0C .notJoined))) ∧
      (∀ target : Address, argument1 w = target.val → roomToSend s →
        exec .tripClear s = .next
          (answered
            (requeued s
              (behindHead { body := .clear target, originator := .ae, tracked := false, collisions := 0 }
                (waitingFrames s.lc)))
            (acceptedReply 0x0C 0 0))) ∧
      (argument1 w < 16 → inRounds → s.lc.muted = false → s.lc.queue.length = 8 →
        (∀ q ∈ waitingFrames s.lc, ofClass .ordinary q = false) →
        exec .tripClear s = .next (answered (discarded s) (refusedReply 0x0C .busy))) ∧
      (∀ target : Address, argument1 w = target.val → inRounds → s.lc.muted = false → s.lc.queue.length = 8 →
        (∃ q ∈ waitingFrames s.lc, ofClass .ordinary q = true) →
        exec .tripClear s = .next
          (afterFailures
            (answered
              (offerFrame { body := .clear target, originator := .ae, tracked := false, collisions := 0 } s).2
              (acceptedReply 0x0C 0 0)))))

/-- R125, R126, R160: RELEASE withdraws START-HOLD under its three conditions (DeviceEntries) or is refused
NOT-JOINED; RESTART, but in PROFILE, clears what the node has learnt and stages its reply. The quiet measurement goes
on (R34). That a rank which three slots of quiet have fixed stays fixed over RESTART is the model's choice (log 23),
and so are that an exchange in progress goes on with its word the reply buffer's no longer (log 18), that the target
stands under START-HOLD (log 11), and that the own placed burn is 0 (log 20). -/
def Obligations.ReleaseAndRestart : Prop :=
  ∀ (s : State) (w : Word32), Held s w →
    (commandCode w = 0x0D →
      let may := s.ae.join = .joined ∧ s.ae.ownLive = true ∧ s.ownEntry.presence = .live
      (may → exec .release s = .next (answered (deviceWithdraw .startHold s) (acceptedReply 0x0D 0 0))) ∧
      (¬ may → exec .release s = .next (answered s (refusedReply 0x0D .notJoined)))) ∧
    (commandCode w = 0x0E →
      (s.ae.join = .profile → exec .restart s = .next (answered s (refusedReply 0x0E .sequence))) ∧
      (s.ae.join ≠ .profile →
        let cleared : Channels := { ch0 := none, ch1 := none, ch2 := none, ch3 := none }
        let t :=
          { s with
            lc :=
              { s.lc with
                queue := [], onLine := none, lastSender := 15, muted := false
                line := match s.lc.line with
                  | .quiet since none =>
                    .quiet since (if since + 750 ≤ s.now then some s.lc.lastSender else none)
                  | l => l }
            ae :=
              { join := .listening, round := 0, roundTimer := .running s.now
                silenceTimer := if lineBusy s.lc.line = true then .held else .running s.now
                journal := [], committed := clearedState, digest := 0, ownBurn := 0, cap := none, ownLive := false
                announced := false, plantTrip := false, demand := { stage := .idle, outcome := .verdict .none }
                lastTier := s.ae.lastTier, hold := [], latched := cleared }
            ttu := { phase := .idle, attempts := 0, buffer := [], answerTimer := .stopped, stallTimer := .stopped }
            ovs :=
              { stack :=
                  [{ kind := .startHold, value := 0, captured := 0, round := 0, void := false, expiries := 0 }] }
            vd :=
              { s.vd with
                baseSetpoint := if s.role = .producer ∨ s.role = .store then s.profileWord 2 else 0, lead := false }
            eiu :=
              { esd := { s.eiu.esd with reference := s.eiu.esd.pin, latch := false }
                trip := { s.eiu.trip with reference := s.eiu.trip.pin, latch := false }
                permit := { s.eiu.permit with reference := s.eiu.permit.pin, latch := false }
                aux := { s.eiu.aux with reference := s.eiu.aux.pin && decide (s.role ≠ .flare), latch := false }
                wait := if s.role = .flare ∧ s.eiu.aux.pin = true then .running s.now else .stopped
                flame := false, tripOutstanding := false }
            smp := { s.smp with history := [], scanning := none, nextScan := s.now + 25000, smoothed := cleared }
            pp :=
              { s.pp with
                flags := 0x8000, holding := none, reply := some (acceptedReply 0x0E 0 0), outcome := none
                sequenceMark := false, overrunMark := false
                exchange := match s.pp.exchange with
                  | .shifting word _ => .shifting word false
                  | x => x } }
        exec .restart s = .next t ∧ t.shut = false))

/-- A command whose condition does not hold changes nothing (the model's choice, log 3). -/
def Obligations.CommandsNotEnabled : Prop :=
  ∀ s : State,
    (∀ slots, (s.lc.onLine ≠ none ∨ s.lc.queue = [] ∨ (∃ first last own, s.lc.line = .busy first last own) ∨
        (∃ q ∈ s.lc.queue.head?, admits s.ae.join s.lc.muted q.body = false) ∨
        ∃ since view, s.lc.line = .quiet since view ∧
          let base := 3 + (s.address - view.getD s.lc.lastSender - 1).val
          ((∀ k, slots ≠ base + 16 * k) ∨ since + 250 * slots < s.now ∨
            (base + 16 ≤ slots ∧ s.now < since + 250 * (slots - 16)))) →
      exec (.frameStart slots) s = .next s) ∧
    (s.lc.onLine = none → exec .collision s = .next s ∧ exec .frameSent s = .next s) ∧
    (s.lc.onLine ≠ none →
      exec .startBitDetected s = .next s ∧ ∀ chars e, exec (.frameEnd chars e) s = .next s) ∧
    (¬ (s.ae.join = .profile ∧ s.pp.windowOpen = true) → exec .profileWindowExpiry s = .next s) ∧
    ((∀ since, s.ae.roundTimer ≠ .running since) → exec .roundTimerExpiry s = .next s) ∧
    ((s.ae.join ≠ .listening ∨ ∀ since, s.ae.silenceTimer ≠ .running since) → exec .silenceTimerExpiry s = .next s) ∧
    ((∀ since, s.ttu.answerTimer ≠ .running since) → exec .answerTimerExpiry s = .next s) ∧
    ((∀ since, s.ttu.stallTimer ≠ .running since) → exec .stallTimerExpiry s = .next s) ∧
    ((s.role = .flare ∨ ∀ since, s.eiu.wait ≠ .running since) → exec .in3DebounceExpiry s = .next s) ∧
    ((s.role ≠ .flare ∨ ∀ since, s.eiu.wait ≠ .running since) → exec .flameProvingExpiry s = .next s) ∧
    (s.eiu.esd.latch = false → exec .esdEvent s = .next s) ∧
    ((s.eiu.trip.latch = false ∨ s.eiu.esd.latch = true) → exec .tripEvent s = .next s) ∧
    ((s.eiu.permit.latch = false ∨ s.eiu.esd.latch = true ∨ s.eiu.trip.latch = true) →
      exec .permitEvent s = .next s) ∧
    ((s.eiu.aux.latch = false ∨ s.eiu.esd.latch = true ∨ s.eiu.trip.latch = true ∨ s.eiu.permit.latch = true) →
      exec .auxEvent s = .next s) ∧
    (s.smp.scanning ≠ none → exec .scanStart s = .next s) ∧
    (s.smp.scanning = none → ∀ codes, exec (.scanComplete codes) s = .next s) ∧
    (s.pp.exchange ≠ .none → exec .exchangeStart s = .next s) ∧
    (s.pp.exchange = .none → ∀ edges w first, exec (.exchangeEnd edges w first) s = .next s) ∧
    (∀ p ∈ panelRows, (∀ w, s.pp.holding = some w → commandCode w = p.2 → s.pp.reply ≠ none ∨ s.pp.outcome ≠ none) →
      exec p.1 s = .next s) ∧
    ((∀ w, s.pp.holding = some w → 0x11 < commandCode w → s.pp.reply ≠ none ∨ s.pp.outcome ≠ none) →
      exec .illegalCommandCode s = .next s)
end

