-- ==== Sys2Proof/Laws/State.lean ====
section
/-! SUPPORT. What each block update and each small operation leaves in every field of the state. -/

namespace Sys2Proof.Machine

variable (s : State)

/-! setLc -/

@[simp] theorem setLc_address (x : LinkController) : (s.setLc x).address = s.address := rfl
@[simp] theorem setLc_role (x : LinkController) : (s.setLc x).role = s.role := rfl
@[simp] theorem setLc_lc (x : LinkController) : (s.setLc x).lc = x := rfl
@[simp] theorem setLc_ae (x : LinkController) : (s.setLc x).ae = s.ae := rfl
@[simp] theorem setLc_ttu (x : LinkController) : (s.setLc x).ttu = s.ttu := rfl
@[simp] theorem setLc_ovs (x : LinkController) : (s.setLc x).ovs = s.ovs := rfl
@[simp] theorem setLc_vd (x : LinkController) : (s.setLc x).vd = s.vd := rfl
@[simp] theorem setLc_eiu (x : LinkController) : (s.setLc x).eiu = s.eiu := rfl
@[simp] theorem setLc_smp (x : LinkController) : (s.setLc x).smp = s.smp := rfl
@[simp] theorem setLc_pp (x : LinkController) : (s.setLc x).pp = s.pp := rfl
@[simp] theorem setLc_now (x : LinkController) : (s.setLc x).now = s.now := rfl
@[simp] theorem setLc_freeCount (x : LinkController) : (s.setLc x).freeCount = s.freeCount := rfl
@[simp] theorem setLc_pending (x : LinkController) : (s.setLc x).pending = s.pending := rfl

/-! setAe -/

@[simp] theorem setAe_address (x : AllocationEngine) : (s.setAe x).address = s.address := rfl
@[simp] theorem setAe_role (x : AllocationEngine) : (s.setAe x).role = s.role := rfl
@[simp] theorem setAe_lc (x : AllocationEngine) : (s.setAe x).lc = s.lc := rfl
@[simp] theorem setAe_ae (x : AllocationEngine) : (s.setAe x).ae = x := rfl
@[simp] theorem setAe_ttu (x : AllocationEngine) : (s.setAe x).ttu = s.ttu := rfl
@[simp] theorem setAe_ovs (x : AllocationEngine) : (s.setAe x).ovs = s.ovs := rfl
@[simp] theorem setAe_vd (x : AllocationEngine) : (s.setAe x).vd = s.vd := rfl
@[simp] theorem setAe_eiu (x : AllocationEngine) : (s.setAe x).eiu = s.eiu := rfl
@[simp] theorem setAe_smp (x : AllocationEngine) : (s.setAe x).smp = s.smp := rfl
@[simp] theorem setAe_pp (x : AllocationEngine) : (s.setAe x).pp = s.pp := rfl
@[simp] theorem setAe_now (x : AllocationEngine) : (s.setAe x).now = s.now := rfl
@[simp] theorem setAe_freeCount (x : AllocationEngine) : (s.setAe x).freeCount = s.freeCount := rfl
@[simp] theorem setAe_pending (x : AllocationEngine) : (s.setAe x).pending = s.pending := rfl

/-! setTtu -/

@[simp] theorem setTtu_address (x : TransferUnit) : (s.setTtu x).address = s.address := rfl
@[simp] theorem setTtu_role (x : TransferUnit) : (s.setTtu x).role = s.role := rfl
@[simp] theorem setTtu_lc (x : TransferUnit) : (s.setTtu x).lc = s.lc := rfl
@[simp] theorem setTtu_ae (x : TransferUnit) : (s.setTtu x).ae = s.ae := rfl
@[simp] theorem setTtu_ttu (x : TransferUnit) : (s.setTtu x).ttu = x := rfl
@[simp] theorem setTtu_ovs (x : TransferUnit) : (s.setTtu x).ovs = s.ovs := rfl
@[simp] theorem setTtu_vd (x : TransferUnit) : (s.setTtu x).vd = s.vd := rfl
@[simp] theorem setTtu_eiu (x : TransferUnit) : (s.setTtu x).eiu = s.eiu := rfl
@[simp] theorem setTtu_smp (x : TransferUnit) : (s.setTtu x).smp = s.smp := rfl
@[simp] theorem setTtu_pp (x : TransferUnit) : (s.setTtu x).pp = s.pp := rfl
@[simp] theorem setTtu_now (x : TransferUnit) : (s.setTtu x).now = s.now := rfl
@[simp] theorem setTtu_freeCount (x : TransferUnit) : (s.setTtu x).freeCount = s.freeCount := rfl
@[simp] theorem setTtu_pending (x : TransferUnit) : (s.setTtu x).pending = s.pending := rfl

/-! setOvs -/

@[simp] theorem setOvs_address (x : OverrideStack) : (s.setOvs x).address = s.address := rfl
@[simp] theorem setOvs_role (x : OverrideStack) : (s.setOvs x).role = s.role := rfl
@[simp] theorem setOvs_lc (x : OverrideStack) : (s.setOvs x).lc = s.lc := rfl
@[simp] theorem setOvs_ae (x : OverrideStack) : (s.setOvs x).ae = s.ae := rfl
@[simp] theorem setOvs_ttu (x : OverrideStack) : (s.setOvs x).ttu = s.ttu := rfl
@[simp] theorem setOvs_ovs (x : OverrideStack) : (s.setOvs x).ovs = x := rfl
@[simp] theorem setOvs_vd (x : OverrideStack) : (s.setOvs x).vd = s.vd := rfl
@[simp] theorem setOvs_eiu (x : OverrideStack) : (s.setOvs x).eiu = s.eiu := rfl
@[simp] theorem setOvs_smp (x : OverrideStack) : (s.setOvs x).smp = s.smp := rfl
@[simp] theorem setOvs_pp (x : OverrideStack) : (s.setOvs x).pp = s.pp := rfl
@[simp] theorem setOvs_now (x : OverrideStack) : (s.setOvs x).now = s.now := rfl
@[simp] theorem setOvs_freeCount (x : OverrideStack) : (s.setOvs x).freeCount = s.freeCount := rfl
@[simp] theorem setOvs_pending (x : OverrideStack) : (s.setOvs x).pending = s.pending := rfl

/-! setVd -/

@[simp] theorem setVd_address (x : ValveDriver) : (s.setVd x).address = s.address := rfl
@[simp] theorem setVd_role (x : ValveDriver) : (s.setVd x).role = s.role := rfl
@[simp] theorem setVd_lc (x : ValveDriver) : (s.setVd x).lc = s.lc := rfl
@[simp] theorem setVd_ae (x : ValveDriver) : (s.setVd x).ae = s.ae := rfl
@[simp] theorem setVd_ttu (x : ValveDriver) : (s.setVd x).ttu = s.ttu := rfl
@[simp] theorem setVd_ovs (x : ValveDriver) : (s.setVd x).ovs = s.ovs := rfl
@[simp] theorem setVd_vd (x : ValveDriver) : (s.setVd x).vd = x := rfl
@[simp] theorem setVd_eiu (x : ValveDriver) : (s.setVd x).eiu = s.eiu := rfl
@[simp] theorem setVd_smp (x : ValveDriver) : (s.setVd x).smp = s.smp := rfl
@[simp] theorem setVd_pp (x : ValveDriver) : (s.setVd x).pp = s.pp := rfl
@[simp] theorem setVd_now (x : ValveDriver) : (s.setVd x).now = s.now := rfl
@[simp] theorem setVd_freeCount (x : ValveDriver) : (s.setVd x).freeCount = s.freeCount := rfl
@[simp] theorem setVd_pending (x : ValveDriver) : (s.setVd x).pending = s.pending := rfl

/-! setEiu -/

@[simp] theorem setEiu_address (x : EventInputUnit) : (s.setEiu x).address = s.address := rfl
@[simp] theorem setEiu_role (x : EventInputUnit) : (s.setEiu x).role = s.role := rfl
@[simp] theorem setEiu_lc (x : EventInputUnit) : (s.setEiu x).lc = s.lc := rfl
@[simp] theorem setEiu_ae (x : EventInputUnit) : (s.setEiu x).ae = s.ae := rfl
@[simp] theorem setEiu_ttu (x : EventInputUnit) : (s.setEiu x).ttu = s.ttu := rfl
@[simp] theorem setEiu_ovs (x : EventInputUnit) : (s.setEiu x).ovs = s.ovs := rfl
@[simp] theorem setEiu_vd (x : EventInputUnit) : (s.setEiu x).vd = s.vd := rfl
@[simp] theorem setEiu_eiu (x : EventInputUnit) : (s.setEiu x).eiu = x := rfl
@[simp] theorem setEiu_smp (x : EventInputUnit) : (s.setEiu x).smp = s.smp := rfl
@[simp] theorem setEiu_pp (x : EventInputUnit) : (s.setEiu x).pp = s.pp := rfl
@[simp] theorem setEiu_now (x : EventInputUnit) : (s.setEiu x).now = s.now := rfl
@[simp] theorem setEiu_freeCount (x : EventInputUnit) : (s.setEiu x).freeCount = s.freeCount := rfl
@[simp] theorem setEiu_pending (x : EventInputUnit) : (s.setEiu x).pending = s.pending := rfl

/-! setSmp -/

@[simp] theorem setSmp_address (x : Sampler) : (s.setSmp x).address = s.address := rfl
@[simp] theorem setSmp_role (x : Sampler) : (s.setSmp x).role = s.role := rfl
@[simp] theorem setSmp_lc (x : Sampler) : (s.setSmp x).lc = s.lc := rfl
@[simp] theorem setSmp_ae (x : Sampler) : (s.setSmp x).ae = s.ae := rfl
@[simp] theorem setSmp_ttu (x : Sampler) : (s.setSmp x).ttu = s.ttu := rfl
@[simp] theorem setSmp_ovs (x : Sampler) : (s.setSmp x).ovs = s.ovs := rfl
@[simp] theorem setSmp_vd (x : Sampler) : (s.setSmp x).vd = s.vd := rfl
@[simp] theorem setSmp_eiu (x : Sampler) : (s.setSmp x).eiu = s.eiu := rfl
@[simp] theorem setSmp_smp (x : Sampler) : (s.setSmp x).smp = x := rfl
@[simp] theorem setSmp_pp (x : Sampler) : (s.setSmp x).pp = s.pp := rfl
@[simp] theorem setSmp_now (x : Sampler) : (s.setSmp x).now = s.now := rfl
@[simp] theorem setSmp_freeCount (x : Sampler) : (s.setSmp x).freeCount = s.freeCount := rfl
@[simp] theorem setSmp_pending (x : Sampler) : (s.setSmp x).pending = s.pending := rfl

/-! setPp -/

@[simp] theorem setPp_address (x : PanelPort) : (s.setPp x).address = s.address := rfl
@[simp] theorem setPp_role (x : PanelPort) : (s.setPp x).role = s.role := rfl
@[simp] theorem setPp_lc (x : PanelPort) : (s.setPp x).lc = s.lc := rfl
@[simp] theorem setPp_ae (x : PanelPort) : (s.setPp x).ae = s.ae := rfl
@[simp] theorem setPp_ttu (x : PanelPort) : (s.setPp x).ttu = s.ttu := rfl
@[simp] theorem setPp_ovs (x : PanelPort) : (s.setPp x).ovs = s.ovs := rfl
@[simp] theorem setPp_vd (x : PanelPort) : (s.setPp x).vd = s.vd := rfl
@[simp] theorem setPp_eiu (x : PanelPort) : (s.setPp x).eiu = s.eiu := rfl
@[simp] theorem setPp_smp (x : PanelPort) : (s.setPp x).smp = s.smp := rfl
@[simp] theorem setPp_pp (x : PanelPort) : (s.setPp x).pp = x := rfl
@[simp] theorem setPp_now (x : PanelPort) : (s.setPp x).now = s.now := rfl
@[simp] theorem setPp_freeCount (x : PanelPort) : (s.setPp x).freeCount = s.freeCount := rfl
@[simp] theorem setPp_pending (x : PanelPort) : (s.setPp x).pending = s.pending := rfl

/-! setNow -/

@[simp] theorem setNow_address (x : Nat) : (s.setNow x).address = s.address := rfl
@[simp] theorem setNow_role (x : Nat) : (s.setNow x).role = s.role := rfl
@[simp] theorem setNow_lc (x : Nat) : (s.setNow x).lc = s.lc := rfl
@[simp] theorem setNow_ae (x : Nat) : (s.setNow x).ae = s.ae := rfl
@[simp] theorem setNow_ttu (x : Nat) : (s.setNow x).ttu = s.ttu := rfl
@[simp] theorem setNow_ovs (x : Nat) : (s.setNow x).ovs = s.ovs := rfl
@[simp] theorem setNow_vd (x : Nat) : (s.setNow x).vd = s.vd := rfl
@[simp] theorem setNow_eiu (x : Nat) : (s.setNow x).eiu = s.eiu := rfl
@[simp] theorem setNow_smp (x : Nat) : (s.setNow x).smp = s.smp := rfl
@[simp] theorem setNow_pp (x : Nat) : (s.setNow x).pp = s.pp := rfl
@[simp] theorem setNow_now (x : Nat) : (s.setNow x).now = x := rfl
@[simp] theorem setNow_freeCount (x : Nat) : (s.setNow x).freeCount = s.freeCount := rfl
@[simp] theorem setNow_pending (x : Nat) : (s.setNow x).pending = s.pending := rfl

/-! setFreeCount -/

@[simp] theorem setFreeCount_address (x : Nat) : (s.setFreeCount x).address = s.address := rfl
@[simp] theorem setFreeCount_role (x : Nat) : (s.setFreeCount x).role = s.role := rfl
@[simp] theorem setFreeCount_lc (x : Nat) : (s.setFreeCount x).lc = s.lc := rfl
@[simp] theorem setFreeCount_ae (x : Nat) : (s.setFreeCount x).ae = s.ae := rfl
@[simp] theorem setFreeCount_ttu (x : Nat) : (s.setFreeCount x).ttu = s.ttu := rfl
@[simp] theorem setFreeCount_ovs (x : Nat) : (s.setFreeCount x).ovs = s.ovs := rfl
@[simp] theorem setFreeCount_vd (x : Nat) : (s.setFreeCount x).vd = s.vd := rfl
@[simp] theorem setFreeCount_eiu (x : Nat) : (s.setFreeCount x).eiu = s.eiu := rfl
@[simp] theorem setFreeCount_smp (x : Nat) : (s.setFreeCount x).smp = s.smp := rfl
@[simp] theorem setFreeCount_pp (x : Nat) : (s.setFreeCount x).pp = s.pp := rfl
@[simp] theorem setFreeCount_now (x : Nat) : (s.setFreeCount x).now = s.now := rfl
@[simp] theorem setFreeCount_freeCount (x : Nat) : (s.setFreeCount x).freeCount = x := rfl
@[simp] theorem setFreeCount_pending (x : Nat) : (s.setFreeCount x).pending = s.pending := rfl

/-! setPending -/

@[simp] theorem setPending_address (x : List Instr) : (s.setPending x).address = s.address := rfl
@[simp] theorem setPending_role (x : List Instr) : (s.setPending x).role = s.role := rfl
@[simp] theorem setPending_lc (x : List Instr) : (s.setPending x).lc = s.lc := rfl
@[simp] theorem setPending_ae (x : List Instr) : (s.setPending x).ae = s.ae := rfl
@[simp] theorem setPending_ttu (x : List Instr) : (s.setPending x).ttu = s.ttu := rfl
@[simp] theorem setPending_ovs (x : List Instr) : (s.setPending x).ovs = s.ovs := rfl
@[simp] theorem setPending_vd (x : List Instr) : (s.setPending x).vd = s.vd := rfl
@[simp] theorem setPending_eiu (x : List Instr) : (s.setPending x).eiu = s.eiu := rfl
@[simp] theorem setPending_smp (x : List Instr) : (s.setPending x).smp = s.smp := rfl
@[simp] theorem setPending_pp (x : List Instr) : (s.setPending x).pp = s.pp := rfl
@[simp] theorem setPending_now (x : List Instr) : (s.setPending x).now = s.now := rfl
@[simp] theorem setPending_freeCount (x : List Instr) : (s.setPending x).freeCount = s.freeCount := rfl
@[simp] theorem setPending_pending (x : List Instr) : (s.setPending x).pending = x := rfl

/-! advanceTo -/

@[simp] theorem advanceTo_address (d : Nat) : (advanceTo d s).address = s.address := rfl
@[simp] theorem advanceTo_role (d : Nat) : (advanceTo d s).role = s.role := rfl
@[simp] theorem advanceTo_lc (d : Nat) : (advanceTo d s).lc = s.lc := rfl
@[simp] theorem advanceTo_ae (d : Nat) : (advanceTo d s).ae = s.ae := rfl
@[simp] theorem advanceTo_ttu (d : Nat) : (advanceTo d s).ttu = s.ttu := rfl
@[simp] theorem advanceTo_ovs (d : Nat) : (advanceTo d s).ovs = s.ovs := rfl
@[simp] theorem advanceTo_vd (d : Nat) : (advanceTo d s).vd = s.vd := rfl
@[simp] theorem advanceTo_eiu (d : Nat) : (advanceTo d s).eiu = s.eiu := rfl
@[simp] theorem advanceTo_smp (d : Nat) : (advanceTo d s).smp = s.smp := rfl
@[simp] theorem advanceTo_pp (d : Nat) : (advanceTo d s).pp = s.pp := rfl
@[simp] theorem advanceTo_now (d : Nat) : (advanceTo d s).now = max s.now d := rfl
@[simp] theorem advanceTo_freeCount (d : Nat) : (advanceTo d s).freeCount = s.freeCount := rfl
@[simp] theorem advanceTo_pending (d : Nat) : (advanceTo d s).pending = s.pending := rfl

/-! raiseEvent -/

@[simp] theorem raiseEvent_address (e : EventFlag) : (raiseEvent e s).address = s.address := rfl
@[simp] theorem raiseEvent_role (e : EventFlag) : (raiseEvent e s).role = s.role := rfl
@[simp] theorem raiseEvent_lc (e : EventFlag) : (raiseEvent e s).lc = s.lc := rfl
@[simp] theorem raiseEvent_ae (e : EventFlag) : (raiseEvent e s).ae = s.ae := rfl
@[simp] theorem raiseEvent_ttu (e : EventFlag) : (raiseEvent e s).ttu = s.ttu := rfl
@[simp] theorem raiseEvent_ovs (e : EventFlag) : (raiseEvent e s).ovs = s.ovs := rfl
@[simp] theorem raiseEvent_vd (e : EventFlag) : (raiseEvent e s).vd = s.vd := rfl
@[simp] theorem raiseEvent_eiu (e : EventFlag) : (raiseEvent e s).eiu = s.eiu := rfl
@[simp] theorem raiseEvent_smp (e : EventFlag) : (raiseEvent e s).smp = s.smp := rfl
@[simp] theorem raiseEvent_pp (e : EventFlag) :
    (raiseEvent e s).pp = { s.pp with flags := withFlag s.pp.flags e } := rfl
@[simp] theorem raiseEvent_now (e : EventFlag) : (raiseEvent e s).now = s.now := rfl
@[simp] theorem raiseEvent_freeCount (e : EventFlag) : (raiseEvent e s).freeCount = s.freeCount := rfl
@[simp] theorem raiseEvent_pending (e : EventFlag) : (raiseEvent e s).pending = s.pending := rfl

/-! raiseIf -/

@[simp] theorem raiseIf_address (c : Bool) (e : EventFlag) : (raiseIf c e s).address = s.address := by
  cases c <;> rfl
@[simp] theorem raiseIf_role (c : Bool) (e : EventFlag) : (raiseIf c e s).role = s.role := by
  cases c <;> rfl
@[simp] theorem raiseIf_lc (c : Bool) (e : EventFlag) : (raiseIf c e s).lc = s.lc := by
  cases c <;> rfl
@[simp] theorem raiseIf_ae (c : Bool) (e : EventFlag) : (raiseIf c e s).ae = s.ae := by
  cases c <;> rfl
@[simp] theorem raiseIf_ttu (c : Bool) (e : EventFlag) : (raiseIf c e s).ttu = s.ttu := by
  cases c <;> rfl
@[simp] theorem raiseIf_ovs (c : Bool) (e : EventFlag) : (raiseIf c e s).ovs = s.ovs := by
  cases c <;> rfl
@[simp] theorem raiseIf_vd (c : Bool) (e : EventFlag) : (raiseIf c e s).vd = s.vd := by
  cases c <;> rfl
@[simp] theorem raiseIf_eiu (c : Bool) (e : EventFlag) : (raiseIf c e s).eiu = s.eiu := by
  cases c <;> rfl
@[simp] theorem raiseIf_smp (c : Bool) (e : EventFlag) : (raiseIf c e s).smp = s.smp := by
  cases c <;> rfl
@[simp] theorem raiseIf_pp (c : Bool) (e : EventFlag) :
    (raiseIf c e s).pp = { s.pp with flags := withFlagIf c e s.pp.flags } := by
  cases c <;> rfl
@[simp] theorem raiseIf_now (c : Bool) (e : EventFlag) : (raiseIf c e s).now = s.now := by
  cases c <;> rfl
@[simp] theorem raiseIf_freeCount (c : Bool) (e : EventFlag) : (raiseIf c e s).freeCount = s.freeCount := by
  cases c <;> rfl
@[simp] theorem raiseIf_pending (c : Bool) (e : EventFlag) : (raiseIf c e s).pending = s.pending := by
  cases c <;> rfl

end Sys2Proof.Machine
end

