-- ==== Sys2Proof/Laws/QueueWork.lean ====
section
/-! SUPPORT. All that a frame offered, withdrawn, displaced or refused can change, said once (R29 to R33). The
operations of the transmit queue are cited through `QueueWork` and are not unfolded again. -/

namespace Sys2Proof.Laws

open Sys2Proof.Machine Sys2Proof.Safety

/-- All that the transmit queue's work can change, the queue's length apart. -/
structure QueueFrame (s t : State) : Prop where
  address : t.address = s.address
  role : t.role = s.role
  ovs : t.ovs = s.ovs
  vd : t.vd = s.vd
  eiu : t.eiu = s.eiu
  smp : t.smp = s.smp
  now : t.now = s.now
  freeCount : t.freeCount = s.freeCount
  pending : t.pending = s.pending
  pp : t.pp = { s.pp with flags := t.pp.flags }
  ae : t.ae = { s.ae with demand := t.ae.demand, announced := t.ae.announced, hold := t.ae.hold }
  lc : t.lc = { s.lc with queue := t.lc.queue, counters := t.lc.counters }
  kept : s.lc.onLine.isSome = true → s.lc.queue ≠ [] → t.lc.queue ≠ []
  bodies : ∀ q ∈ t.lc.queue,
    (∃ r ∈ s.lc.queue, r.body = q.body) ∨ admits s.ae.join s.lc.muted q.body = true
  asking : asking t.ttu.phase = true → asking s.ttu.phase = true

/-- All that the transmit queue's work can change: it never grows past 8 frames (R29), never comes to hold a second MARK
or a second waiting STATUS (R30). -/
structure QueueWork (s t : State) : Prop extends QueueFrame s t where
  length : s.lc.queue.length ≤ 8 → t.lc.queue.length ≤ 8
  one : oneEach s.lc → oneEach t.lc

/-- No more MARKs in the queue and no more waiting STATUS frames than before. -/
structure NoMore (a b : LinkController) : Prop where
  marks : b.queue.countP (ofClass .mark) ≤ a.queue.countP (ofClass .mark)
  statuses : (waitingFrames b).countP (ofClass .status) ≤ (waitingFrames a).countP (ofClass .status)

theorem NoMore.refl (a : LinkController) : NoMore a a := ⟨le_refl _, le_refl _⟩

theorem noMore_of_eq {a b : LinkController} (hq : b.queue = a.queue) (ho : b.onLine = a.onLine) : NoMore a b := by
  constructor
  · rw [hq]
  · unfold waitingFrames
    rw [hq, ho]

theorem NoMore.trans {a b c : LinkController} (h : NoMore a b) (k : NoMore b c) : NoMore a c :=
  ⟨k.marks.trans h.marks, k.statuses.trans h.statuses⟩

theorem NoMore.one {a b : LinkController} (h : NoMore a b) (k : oneEach a) : oneEach b :=
  ⟨h.marks.trans k.1, h.statuses.trans k.2⟩

theorem QueueFrame.join {s t : State} (h : QueueFrame s t) : t.ae.join = s.ae.join := by rw [h.ae]

theorem QueueFrame.round {s t : State} (h : QueueFrame s t) : t.ae.round = s.ae.round := by rw [h.ae]

theorem QueueFrame.muted {s t : State} (h : QueueFrame s t) : t.lc.muted = s.lc.muted := by rw [h.lc]

theorem QueueFrame.onLine {s t : State} (h : QueueFrame s t) : t.lc.onLine = s.lc.onLine := by rw [h.lc]

theorem QueueFrame.chain {s t u : State} (h : QueueFrame s t) (k : QueueFrame t u) : QueueFrame s u where
  address := k.address.trans h.address
  role := k.role.trans h.role
  ovs := k.ovs.trans h.ovs
  vd := k.vd.trans h.vd
  eiu := k.eiu.trans h.eiu
  smp := k.smp.trans h.smp
  now := k.now.trans h.now
  freeCount := k.freeCount.trans h.freeCount
  pending := k.pending.trans h.pending
  pp := by rw [k.pp, h.pp]
  ae := by rw [k.ae, h.ae]
  lc := by rw [k.lc, h.lc]
  kept := fun a b => k.kept (h.onLine ▸ a) (h.kept a b)
  bodies := fun q hq => by
    rcases k.bodies q hq with ⟨r, hr, e⟩ | hq
    · rcases h.bodies r hr with ⟨r', hr', e'⟩ | hr
      · exact Or.inl ⟨r', hr', e'.trans e⟩
      · exact Or.inr (e ▸ hr)
    · rw [h.join, h.muted] at hq; exact Or.inr hq
  asking := fun a => h.asking (k.asking a)

theorem QueueWork.trans {s t u : State} (h : QueueWork s t) (k : QueueWork t u) : QueueWork s u where
  toQueueFrame := h.toQueueFrame.chain k.toQueueFrame
  length := fun a => k.length (h.length a)
  one := fun a => k.one (h.one a)

theorem QueueWork.refl (s : State) : QueueWork s s where
  address := rfl
  role := rfl
  ovs := rfl
  vd := rfl
  eiu := rfl
  smp := rfl
  now := rfl
  freeCount := rfl
  pending := rfl
  pp := rfl
  ae := rfl
  lc := rfl
  kept := fun _ h => h
  bodies := fun q hq => Or.inl ⟨q, hq, rfl⟩
  length := id
  one := id
  asking := id

/-! The pieces. -/

/-- The queue of an LC is its frame in progress and its waiting frames. -/
theorem front_append_waiting (lc : LinkController) : frontFrames lc ++ waitingFrames lc = lc.queue := by
  unfold frontFrames waitingFrames
  split
  · cases lc.queue <;> simp
  · rfl

theorem front_isSome (lc : LinkController) (w : List QueuedFrame) :
    (waitingFrames (withWaiting lc w)).Sublist w := by
  unfold waitingFrames withWaiting frontFrames
  cases lc.onLine with
  | none => simp
  | some l => cases lc.queue <;> simp [List.tail_sublist]

theorem countP_queue (lc : LinkController) (p : QueuedFrame → Bool) :
    lc.queue.countP p = (frontFrames lc).countP p + (waitingFrames lc).countP p := by
  rw [← List.countP_append, front_append_waiting]

/-- Waiting frames that are some of those that waited. -/
theorem noMore_withWaiting {lc : LinkController} {w : List QueuedFrame} (h : w.Sublist (waitingFrames lc)) :
    NoMore lc (withWaiting lc w) where
  marks := by
    have := h.countP_le (p := ofClass .mark)
    rw [countP_queue lc]
    simp [withWaiting, List.countP_append]
    exact this
  statuses := ((front_isSome lc w).countP_le).trans h.countP_le

/-- Frames changed in what no class reads. -/
theorem noMore_map (lc : LinkController) (f : QueuedFrame → QueuedFrame) (hf : ∀ q, (f q).body = q.body) :
    NoMore lc { lc with queue := lc.queue.map f } := by
  have hc : ∀ c, (ofClass c) ∘ f = ofClass c := fun c => by funext q; simp [ofClass, hf]
  constructor
  · simp [List.countP_map, hc]
  · have : waitingFrames { lc with queue := lc.queue.map f } = (waitingFrames lc).map f := by
      unfold waitingFrames
      dsimp only
      split <;> simp
    rw [this, List.countP_map, hc]

/-- The waiting frames replaced, each new one a waiting frame's body or an admitted one. -/
theorem queueFrame_setWaiting (w : List QueuedFrame) (s : State)
    (hb : ∀ q ∈ w, (∃ r ∈ s.lc.queue, r.body = q.body) ∨ admits s.ae.join s.lc.muted q.body = true) :
    QueueFrame s (setWaiting w s) := by
  constructor <;> simp [setWaiting, withWaiting]
  · intro h h'
    unfold frontFrames
    rw [if_pos h]
    cases hq : s.lc.queue with
    | nil => exact absurd hq h'
    | cons a l => simp
  · intro q hq
    rcases hq with hq | hq
    · refine Or.inl ⟨q, ?_, rfl⟩
      rw [← front_append_waiting s.lc]
      exact List.mem_append_left _ hq
    · exact hb q hq

/-- The same with the length kept in bounds. -/
theorem queueWork_setWaiting (w : List QueuedFrame) (s : State)
    (hb : ∀ q ∈ w, (∃ r ∈ s.lc.queue, r.body = q.body) ∨ admits s.ae.join s.lc.muted q.body = true)
    (hl : s.lc.queue.length ≤ 8 → (frontFrames s.lc).length + w.length ≤ 8)
    (ho : oneEach s.lc → oneEach (withWaiting s.lc w)) :
    QueueWork s (setWaiting w s) where
  toQueueFrame := queueFrame_setWaiting w s hb
  one := ho
  length := by simpa [setWaiting, withWaiting] using hl

/-- A counter of the LC changed. -/
theorem queueWork_counters (c : LinkCounters) (s : State) :
    QueueWork s (s.setLc { s.lc with counters := c }) := by
  refine ⟨?_, by simp, id⟩
  constructor <;> simp
  exact fun q hq => Or.inl ⟨q, hq, rfl⟩

theorem queueWork_countDiscard (s : State) : QueueWork s (countDiscard s) := queueWork_counters _ s

theorem queueWork_raiseEvent (e : EventFlag) (s : State) : QueueWork s (raiseEvent e s) := by
  refine ⟨?_, by simp, id⟩
  constructor <;> simp
  exact fun q hq => Or.inl ⟨q, hq, rfl⟩

theorem queueWork_raiseIf (c : Bool) (e : EventFlag) (s : State) : QueueWork s (raiseIf c e s) := by
  cases c
  · exact QueueWork.refl s
  · exact queueWork_raiseEvent e s

theorem queueWork_untrack (p : FrameBody → Bool) (s : State) : QueueWork s (untrack p s) := by
  refine ⟨?_, by simp [untrack], (noMore_map s.lc _ fun q => by split <;> rfl).one⟩
  constructor <;> simp [untrack]
  intro q hq
  refine Or.inl ⟨q, hq, ?_⟩
  split <;> rfl

theorem queueWork_withdrawWaiting (p : QueuedFrame → Bool) (s : State) :
    QueueWork s (withdrawWaiting p s) := by
  have hlen : (frontFrames s.lc).length + (waitingFrames s.lc).length = s.lc.queue.length := by
    rw [← List.length_append, front_append_waiting]
  refine queueWork_setWaiting _ s (fun q hq => Or.inl ⟨q, ?_, rfl⟩) (fun h => ?_)
    (noMore_withWaiting List.filter_sublist).one
  · rw [← front_append_waiting s.lc]
    exact List.mem_append_right _ (List.mem_of_mem_filter hq)
  · have := List.length_filter_le (fun q => !p q) (waitingFrames s.lc)
    omega

/-- The TTU left with no new attempt. -/
theorem queueWork_setTtu (x : TransferUnit) (s : State)
    (h : Safety.asking x.phase = true → Safety.asking s.ttu.phase = true) : QueueWork s (s.setTtu x) := by
  refine ⟨?_, by simp, id⟩
  constructor <;> simp <;> try exact h
  exact fun q hq => Or.inl ⟨q, hq, rfl⟩

/-- The AE's demand, announce mark or hold changed. -/
theorem queueWork_setAe (x : AllocationEngine) (s : State)
    (h : x = { s.ae with demand := x.demand, announced := x.announced, hold := x.hold }) :
    QueueWork s (s.setAe x) := by
  refine ⟨?_, by simp, id⟩
  constructor <;> simp <;> try exact h
  exact fun q hq => Or.inl ⟨q, hq, rfl⟩

theorem queueWork_attemptFail (s : State) : QueueWork s (attemptFail s) :=
  ((queueWork_setTtu _ s (by simp [idleTransfer, Safety.asking])).trans (queueWork_untrack _ _)).trans
    (queueWork_raiseEvent _ _)

theorem queueWork_attemptEnd (s : State) : QueueWork s (attemptEnd s) :=
  (queueWork_setTtu _ s (by simp [idleTransfer, Safety.asking])).trans (queueWork_untrack _ _)

theorem queueWork_servingEnd (s : State) : QueueWork s (servingEnd s) :=
  ((queueWork_withdrawWaiting _ s).trans (queueWork_untrack _ _)).trans
    (queueWork_setTtu _ _ (by simp [Safety.asking]))

theorem queueWork_demandNotTaken (s : State) : QueueWork s (demandNotTaken s) := queueWork_setAe _ s rfl

theorem queueWork_announceLost (s : State) : QueueWork s (announceLost s) := queueWork_setAe _ s rfl

theorem queueWork_holdFrame (h : HeldFrame) (s : State) : QueueWork s (holdFrame h s) := queueWork_setAe _ s rfl

theorem queueWork_discardNotice (q : QueuedFrame) (s : State) : QueueWork s (discardNotice q s) := by
  unfold discardNotice
  split <;> (try split) <;>
    first
      | exact QueueWork.refl s
      | exact queueWork_demandNotTaken s
      | exact queueWork_announceLost s
      | exact queueWork_attemptFail s
      | exact queueWork_servingEnd s
      | exact queueWork_holdFrame _ s

/-! Offers. -/

theorem queueWork_refuseFull (q : QueuedFrame) (s : State) : QueueWork s (refuseFull q s) :=
  (queueWork_countDiscard s).trans (queueWork_raiseIf _ _ _)

/-- What `placeFrame` puts among the waiting frames. -/
theorem mem_placeFrame {q x : QueuedFrame} {w : List QueuedFrame} (h : x ∈ placeFrame q w) : x = q ∨ x ∈ w := by
  unfold placeFrame at h
  split at h <;> simp at h <;> tauto

theorem length_placeFrame (q : QueuedFrame) (w : List QueuedFrame) : (placeFrame q w).length = w.length + 1 := by
  unfold placeFrame
  have h := List.length_eq_length_filter_add (l := w) (ofClass FrameClass.head)
  split <;> simp <;> omega

theorem countP_placeFrame (q : QueuedFrame) (w : List QueuedFrame) (p : QueuedFrame → Bool) :
    (placeFrame q w).countP p = w.countP p + if p q then 1 else 0 := by
  have h := List.countP_eq_countP_filter_add w p (ofClass FrameClass.head)
  unfold placeFrame
  split <;> simp [List.countP_append, List.countP_cons] at h ⊢ <;> omega

/-- A MARK placed where there was none, and a STATUS where none waited, keep R30. -/
theorem one_place {q : QueuedFrame} {lc : LinkController} {w : List QueuedFrame} (h : oneEach lc)
    (hw : w.Sublist (waitingFrames lc))
    (hm : ofClass .mark q = true → lc.queue.countP (ofClass .mark) = 0)
    (hst : ofClass .status q = true → w.countP (ofClass .status) = 0) :
    oneEach (withWaiting lc (placeFrame q w)) := by
  constructor
  · have h1 := h.1
    have h2 := hw.countP_le (p := ofClass .mark)
    rw [countP_queue lc] at h1 hm
    simp only [withWaiting, List.countP_append, countP_placeFrame]
    split
    · rename_i e
      have := hm e
      omega
    · omega
  · refine ((front_isSome lc _).countP_le).trans ?_
    have h2 := hw.countP_le (p := ofClass .status)
    have := h.2
    rw [countP_placeFrame]
    split
    · rename_i e
      rw [hst e]
    · omega

/-- A displaced frame was among the waiting ones, and one fewer waits. -/
theorem displaceNewest_spec {w rest : List QueuedFrame} {x : QueuedFrame} (h : displaceNewest w = some (x, rest)) :
    rest.Sublist w ∧ rest.length + 1 = w.length := by
  induction w generalizing rest x with
  | nil => simp [displaceNewest] at h
  | cons a l ih =>
    unfold displaceNewest at h
    split at h
    · rename_i y l' e
      simp at h
      obtain ⟨rfl, rfl⟩ := h
      obtain ⟨h1, h2⟩ := ih e
      exact ⟨h1.cons_cons a, by simp; omega⟩
    · split at h
      · simp at h
        obtain ⟨_, rfl⟩ := h
        exact ⟨List.sublist_cons_self .., rfl⟩
      · simp at h

theorem queueFrame_place (q : QueuedFrame) (s : State) (ha : admits s.ae.join s.lc.muted q.body = true)
    (w : List QueuedFrame) (hw : ∀ x ∈ w, x ∈ waitingFrames s.lc) :
    QueueFrame s (setWaiting (placeFrame q w) s) := by
  refine queueFrame_setWaiting _ s (fun x hx => ?_)
  rcases mem_placeFrame hx with rfl | hx
  · exact Or.inr ha
  · exact Or.inl ⟨x, by rw [← front_append_waiting s.lc]; exact List.mem_append_right _ (hw x hx), rfl⟩

/-- The length of the queue when a frame is placed among `w`. -/
theorem length_place (q : QueuedFrame) (w : List QueuedFrame) (s : State) :
    (setWaiting (placeFrame q w) s).lc.queue.length = (frontFrames s.lc).length + w.length + 1 := by
  simp [setWaiting, withWaiting, length_placeFrame]
  omega

theorem length_front (lc : LinkController) :
    (frontFrames lc).length + (waitingFrames lc).length = lc.queue.length := by
  rw [← List.length_append, front_append_waiting]

/-- A notice adds no frame. -/
theorem length_discardNotice (q : QueuedFrame) (s : State) :
    (discardNotice q s).lc.queue.length ≤ s.lc.queue.length := by
  have hlen : (frontFrames s.lc).length + (waitingFrames s.lc).length = s.lc.queue.length := by
    rw [← List.length_append, front_append_waiting]
  have hf := List.length_filter_le (fun q => !(q.tracked && isBlock q.body)) (waitingFrames s.lc)
  unfold discardNotice
  split <;> (try split) <;>
    simp [demandNotTaken, announceLost, holdFrame, attemptFail, servingEnd, untrack, withdrawWaiting,
      withWaiting] <;> simp at hf <;> omega

/-- A notice adds no MARK and no STATUS. -/
theorem noMore_discardNotice (q : QueuedFrame) (s : State) : NoMore s.lc (discardNotice q s).lc := by
  have hu : ∀ (p : FrameBody → Bool) (t : State), NoMore t.lc (untrack p t).lc := fun p t =>
    noMore_map t.lc _ fun q => by split <;> rfl
  have hf : ∀ t : State, NoMore t.lc (attemptFail t).lc := fun t => hu isAsk (t.setTtu _)
  have he : ∀ t : State, NoMore t.lc (servingEnd t).lc := fun t =>
    ((noMore_withWaiting List.filter_sublist).trans
      (hu isBlock (withdrawWaiting (fun q => q.tracked && isBlock q.body) t))).trans (noMore_of_eq rfl rfl)
  unfold discardNotice
  split <;> (try split) <;> first | exact hf s | exact he s | exact NoMore.refl s.lc

theorem queueWork_offerWithRoom (q : QueuedFrame) (s : State)
    (ha : admits s.ae.join s.lc.muted q.body = true)
    (hm : ofClass .mark q = true → s.lc.queue.countP (ofClass .mark) = 0)
    (hst : ofClass .status q = true → (waitingFrames s.lc).countP (ofClass .status) = 0) :
    QueueWork s (offerWithRoom q s).2 := by
  have hlen := length_front s.lc
  unfold offerWithRoom
  split
  · rename_i h
    change s.lc.queue.length < 8 at h
    exact ⟨queueFrame_place q s ha _ (fun _ => id), fun _ => by rw [length_place]; omega,
      fun h => one_place h (List.Sublist.refl _) hm hst⟩
  · split
    · exact queueWork_refuseFull q s
    · split
      · exact queueWork_refuseFull q s
      · rename_i x rest e
        obtain ⟨hd, hl⟩ := displaceNewest_spec e
        have h1 : QueueFrame s (setWaiting rest s) :=
          queueFrame_setWaiting _ s fun y hy =>
            Or.inl ⟨y, by rw [← front_append_waiting s.lc]; exact List.mem_append_right _ (hd.subset hy), rfl⟩
        have h2 : QueueFrame s (displaceFrame x rest s) :=
          ((h1.chain (queueWork_countDiscard _).toQueueFrame).chain
            (queueWork_raiseEvent _ _).toQueueFrame).chain (queueWork_discardNotice x _).toQueueFrame
        have h4 : NoMore s.lc (displaceFrame x rest s).lc :=
          ((noMore_withWaiting hd).trans
            (noMore_of_eq (b := (raiseEvent .notTaken (countDiscard (setWaiting rest s))).lc) rfl rfl)).trans
            (noMore_discardNotice x _)
        refine ⟨h2.chain (queueFrame_place q _ (by rw [h2.join, h2.muted]; exact ha) _ fun _ => id), fun hs => ?_,
          fun h => one_place (h4.one h) (List.Sublist.refl _) (fun e => ?_) (fun e => ?_)⟩
        rotate_left
        · have := h4.marks
          rw [hm e] at this
          exact Nat.le_zero.1 this
        · have := h4.statuses
          rw [hst e] at this
          exact Nat.le_zero.1 this
        have h3 := length_discardNotice x (raiseEvent .notTaken (countDiscard (setWaiting rest s)))
        change (displaceFrame x rest s).lc.queue.length ≤ _ at h3
        simp [setWaiting, countDiscard, withWaiting] at h3
        rw [length_place, length_front]
        omega

theorem countP_zero_of_any {p : QueuedFrame → Bool} {l : List QueuedFrame} (h : ¬ l.any p = true) :
    l.countP p = 0 := by
  rw [List.countP_eq_zero]
  intro q hq hp
  exact h (List.any_eq_true.2 ⟨q, hq, hp⟩)

theorem queueWork_offerFrame (q : QueuedFrame) (s : State) : QueueWork s (offerFrame q s).2 := by
  unfold offerFrame
  split
  · exact QueueWork.refl s
  · rename_i h
    have ha : admits s.ae.join s.lc.muted q.body = true := by simpa using h
    split
    · rename_i hc
      split
      · exact QueueWork.refl s
      · rename_i hn
        exact queueWork_offerWithRoom q s ha (fun _ => countP_zero_of_any hn) (by simp [ofClass, hc])
    · rename_i hc
      split
      · rename_i h2
        refine ⟨queueFrame_place q s ha _ fun x hx => List.mem_of_mem_filter hx, fun hs => ?_,
          fun h => one_place h List.filter_sublist (by simp [ofClass, hc])
            fun _ => by simp [List.countP_eq_length_filter]⟩
        have hlen := length_front s.lc
        have h3 : ((waitingFrames s.lc).filter fun x => !ofClass FrameClass.status x).length
            < (waitingFrames s.lc).length := by
          obtain ⟨x, hx, hc⟩ := List.any_eq_true.1 h2
          exact List.length_filter_lt_length_iff_exists.2 ⟨x, hx, by simp [hc]⟩
        rw [length_place]
        omega
      · rename_i hn
        exact queueWork_offerWithRoom q s ha (by simp [ofClass, hc]) fun _ => countP_zero_of_any hn
    all_goals
      rename_i hc
      exact queueWork_offerWithRoom q s ha (by simp [ofClass, hc]) (by simp [ofClass, hc])

/-- An admitted frame is one that the join state and the LC accept (R33). -/
theorem admits_of_offerFrame {q : QueuedFrame} {s : State} (h : (offerFrame q s).1 = true) :
    admits s.ae.join s.lc.muted q.body = true := by
  unfold offerFrame at h
  split at h
  · simp at h
  · rename_i ha
    simpa using ha

theorem queueWork_offerPlain (body : FrameBody) (s : State) : QueueWork s (offerPlain body s) :=
  queueWork_offerFrame _ s

theorem queueWork_withdrawMark (s : State) : QueueWork s (withdrawMark s) := queueWork_withdrawWaiting _ s

/-! What refused ordinary frames leave alone. -/

/-- An ordinary frame displaces nothing, so the TTU and the AE are as they were. -/
theorem offerFrame_ordinary (q : QueuedFrame) (s : State) (h : frameClass q.body = .ordinary) :
    (offerFrame q s).2.ttu = s.ttu ∧ (offerFrame q s).2.ae = s.ae := by
  have hr : (offerWithRoom q s).2.ttu = s.ttu ∧ (offerWithRoom q s).2.ae = s.ae := by
    unfold offerWithRoom
    split
    · simp [setWaiting]
    · simp [refuseFull, countDiscard]
  unfold offerFrame
  split
  · simp
  · simp only [h]
    exact hr

/-- A notice fails at most one attempt. -/
theorem attempts_discardNotice (q : QueuedFrame) (s : State) :
    (discardNotice q s).ttu.attempts ≤ s.ttu.attempts + 1 := by
  unfold discardNotice
  split <;> (try split) <;>
    simp [demandNotTaken, announceLost, holdFrame, attemptFail, servingEnd, untrack, withdrawWaiting,
      idleTransfer]

/-- An offer fails at most one attempt. -/
theorem attempts_offerFrame (q : QueuedFrame) (s : State) :
    (offerFrame q s).2.ttu.attempts ≤ s.ttu.attempts + 1 := by
  have h : (offerWithRoom q s).2.ttu.attempts ≤ s.ttu.attempts + 1 := by
    unfold offerWithRoom
    split
    · simp [setWaiting]
    · split
      · simp [refuseFull, countDiscard]
      · split
        · simp [refuseFull, countDiscard]
        · rename_i x rest e
          have h3 := attempts_discardNotice x (raiseEvent .notTaken (countDiscard (setWaiting rest s)))
          simpa [setWaiting, countDiscard, displaceFrame] using h3
  unfold offerFrame
  split
  · simp
  · split
    · split
      · simp
      · exact h
    · split
      · simp [setWaiting]
      · exact h
    · exact h
    · exact h

end Sys2Proof.Laws
end

