-- ==== Sys2Proof/Laws/Stack.lean ====
section
/-! SUPPORT. Every operation of the Override Stack keeps its law, and changes nothing but the stack, the Valve Driver
and STACK-DROP (R130 to R139). -/

namespace Sys2Proof.Laws

open Sys2Proof.Machine Sys2Proof.Safety

/-! What the operations can change. -/

/-- The stack, the Valve Driver and the event flags: all that a push or withdrawal changes. -/
structure StackWork (s t : State) : Prop where
  shape : t = { s with ovs := t.ovs, vd := t.vd, pp := { s.pp with flags := t.pp.flags } }
  law : stackLaw s.ovs.stack → stackLaw t.ovs.stack
  baseSetpoint : t.vd.baseSetpoint = s.vd.baseSetpoint

theorem StackWork.refl (s : State) : StackWork s s := ⟨rfl, id, rfl⟩

theorem StackWork.trans {s t u : State} (h : StackWork s t) (k : StackWork t u) : StackWork s u where
  shape := by rw [k.shape, h.shape]
  law := fun a => k.law (h.law a)
  baseSetpoint := k.baseSetpoint.trans h.baseSetpoint

theorem StackWork.ae {s t : State} (h : StackWork s t) : t.ae = s.ae := by rw [h.shape]
theorem StackWork.lc {s t : State} (h : StackWork s t) : t.lc = s.lc := by rw [h.shape]
theorem StackWork.ttu {s t : State} (h : StackWork s t) : t.ttu = s.ttu := by rw [h.shape]
theorem StackWork.eiu {s t : State} (h : StackWork s t) : t.eiu = s.eiu := by rw [h.shape]
theorem StackWork.smp {s t : State} (h : StackWork s t) : t.smp = s.smp := by rw [h.shape]
theorem StackWork.pp {s t : State} (h : StackWork s t) : t.pp = { s.pp with flags := t.pp.flags } := by
  rw [h.shape]
theorem StackWork.role {s t : State} (h : StackWork s t) : t.role = s.role := by rw [h.shape]
theorem StackWork.address {s t : State} (h : StackWork s t) : t.address = s.address := by rw [h.shape]
theorem StackWork.now {s t : State} (h : StackWork s t) : t.now = s.now := by rw [h.shape]
theorem StackWork.pending {s t : State} (h : StackWork s t) : t.pending = s.pending := by rw [h.shape]

/-! The law over lists. -/

theorem deviceKinds_sublist {a b : List OverrideEntry} (h : a.Sublist b) :
    (deviceKinds a).Sublist (deviceKinds b) := (h.map _).filter _

/-- VOID entries on top removed: the law but for the top holds, and the top is not VOID. -/
theorem head_dropVoidTop (stack : List OverrideEntry) : ∀ e ∈ (dropVoidTop stack).head?, e.void = false := by
  intro e he
  unfold dropVoidTop at he
  induction stack with
  | nil => simp at he
  | cons a l ih =>
    rw [List.dropWhile_cons] at he
    split at he
    · exact ih he
    · rename_i h
      simp at he h
      rw [← he]
      exact h

theorem stackLaw_dropVoidTop {a b : List OverrideEntry} (hl : a.length ≤ 5) (hs : (deviceKinds a).Sublist (deviceKinds b))
    (hb : (deviceKinds b).Nodup) : stackLaw (dropVoidTop a) := by
  have hd : (dropVoidTop a).Sublist a := List.dropWhile_sublist _
  exact ⟨hd.length_le.trans hl, ((deviceKinds_sublist hd).trans hs).nodup hb, head_dropVoidTop a⟩

theorem kinds_withdrawEntry (p : OverrideEntry → Bool) (stack : List OverrideEntry) :
    (withdrawEntry p stack).map (·.kind) = stack.map (·.kind) := by
  induction stack with
  | nil => rfl
  | cons a l ih =>
    unfold withdrawEntry
    split
    · rfl
    · simp [ih]

theorem stackLaw_withdrawn (p : OverrideEntry → Bool) {stack : List OverrideEntry} (h : stackLaw stack) :
    stackLaw (withdrawn p stack) := by
  have hk := kinds_withdrawEntry p stack
  have hlen : (withdrawEntry p stack).length = stack.length := by
    simpa using congrArg List.length hk
  refine stackLaw_dropVoidTop (b := stack) (by rw [hlen]; exact h.1) ?_ h.2.1
  unfold deviceKinds
  rw [hk]

theorem removeLowest_sublist (p : OverrideEntry → Bool) (stack : List OverrideEntry) :
    (removeLowest p stack).Sublist stack := by
  have h := (List.eraseP_sublist (p := p) (l := stack.reverse)).reverse
  rw [List.reverse_reverse] at h
  exact h

theorem removeLowest_length (p : OverrideEntry → Bool) {stack : List OverrideEntry} (h : stack.any p = true) :
    (removeLowest p stack).length + 1 = stack.length := by
  obtain ⟨x, hx, hp⟩ := List.any_eq_true.1 h
  have h1 := List.length_eraseP_of_mem (p := p) (l := stack.reverse) (List.mem_reverse.2 hx) hp
  have h2 : 0 < stack.length := List.length_pos_of_mem hx
  simp only [removeLowest, List.length_reverse, h1]
  omega

/-- With room made, the stack keeps its device kinds apart and has place for one more. -/
theorem makeRoom_spec {stack st : List OverrideEntry} {d : Bool} (h : makeRoom stack = some (st, d))
    (hl : stack.length ≤ 5) : st.length ≤ 4 ∧ st.Sublist stack := by
  unfold makeRoom at h
  split at h
  · rename_i h5
    simp at h
    obtain ⟨rfl, _⟩ := h
    have : stack.length < 5 := h5
    exact ⟨by omega, List.Sublist.refl _⟩
  · split at h
    · rename_i hv
      simp at h
      obtain ⟨rfl, _⟩ := h
      have := removeLowest_length _ hv
      exact ⟨by omega, removeLowest_sublist _ _⟩
    · split at h
      · rename_i hv
        simp at h
        obtain ⟨rfl, _⟩ := h
        have h1 := removeLowest_length _ hv
        have h2 : (dropVoidTop (removeLowest (fun e => panelKind e.kind) stack)).Sublist
          (removeLowest (fun e => panelKind e.kind) stack) := List.dropWhile_sublist _
        exact ⟨by have := h2.length_le; omega, h2.trans (removeLowest_sublist _ _)⟩
      · simp at h

theorem stackLaw_push {stack st : List OverrideEntry} {e : OverrideEntry} (h : stackLaw stack)
    (hs : st.Sublist stack) (hl : st.length ≤ 4) (hv : e.void = false)
    (hk : panelKind e.kind = true ∨ e.kind ∉ st.map (·.kind)) : stackLaw (e :: st) := by
  refine ⟨by simp; omega, ?_, by simpa using hv⟩
  have hn : (deviceKinds st).Nodup := (deviceKinds_sublist hs).nodup h.2.1
  unfold deviceKinds at hn ⊢
  rw [List.map_cons, List.filter_cons]
  split
  · rename_i hp
    refine List.nodup_cons.2 ⟨fun hm => ?_, hn⟩
    rcases hk with hk | hk
    · simp [hk] at hp
    · exact hk (List.mem_of_mem_filter hm)
  · exact hn

theorem stackLaw_countExpiry {stack : List OverrideEntry} (h : stackLaw stack) :
    stackLaw (stack.map countExpiry) := by
  have hk : ∀ e, (countExpiry e).kind = e.kind := fun e => by unfold countExpiry; split <;> rfl
  have hv : ∀ e, (countExpiry e).void = e.void := fun e => by unfold countExpiry; split <;> rfl
  refine ⟨by simpa using h.1, ?_, ?_⟩
  · have : deviceKinds (stack.map countExpiry) = deviceKinds stack := by
      unfold deviceKinds
      simp [hk, Function.comp_def]
    rw [this]
    exact h.2.1
  · intro e he
    cases stack with
    | nil => simp at he
    | cons a l =>
      simp at he
      rw [← he, hv]
      exact h.2.2 a (by simp)

/-! The operations. -/

theorem stackWork_retarget (s : State) : StackWork s (retarget s) := ⟨rfl, id, rfl⟩

theorem stackWork_withStack (s : State) (stack : List OverrideEntry) (h : stackLaw s.ovs.stack → stackLaw stack) :
    StackWork s (withStack s stack) := ⟨rfl, h, rfl⟩

theorem stackWork_raiseEvent (e : EventFlag) (s : State) : StackWork s (raiseEvent e s) := ⟨rfl, id, rfl⟩

theorem stackWork_raiseIf (c : Bool) (e : EventFlag) (s : State) : StackWork s (raiseIf c e s) := by
  cases c
  · exact StackWork.refl s
  · exact stackWork_raiseEvent e s

theorem stackWork_placeOverride (kind : OverrideKind) (value : Word16) (s : State)
    (hk : panelKind kind = true ∨ kind ∉ s.ovs.stack.map (·.kind)) :
    StackWork s (placeOverride kind value s).2 := by
  unfold placeOverride
  split
  · rename_i st d e
    refine (stackWork_withStack s _ fun h => ?_).trans (stackWork_raiseIf _ _ _)
    obtain ⟨hl, hs⟩ := makeRoom_spec e h.1
    refine stackLaw_push h hs hl rfl ?_
    rcases hk with hk | hk
    · exact Or.inl hk
    · exact Or.inr fun hm => hk ((hs.map _).subset hm)
  · exact stackWork_raiseEvent _ _

theorem stackWork_devicePush (kind : OverrideKind) (s : State) : StackWork s (devicePush kind s) := by
  unfold devicePush
  split
  · exact StackWork.refl s
  · split
    · rename_i hv
      refine stackWork_withStack s _ fun h => ?_
      have hs : (s.ovs.stack.filter fun e => decide (e.kind ≠ kind)).Sublist s.ovs.stack := List.filter_sublist
      refine stackLaw_push h hs ?_ rfl (Or.inr ?_)
      · obtain ⟨x, hx, hp⟩ := List.any_eq_true.1 hv
        have : (s.ovs.stack.filter fun e => decide (e.kind ≠ kind)).length < s.ovs.stack.length :=
          List.length_filter_lt_length_iff_exists.2 ⟨x, hx, by simpa using hp⟩
        have := h.1
        omega
      · simp [newOverride]
    · rename_i hv
      refine stackWork_placeOverride kind 0 s (Or.inr ?_)
      simpa using hv

theorem stackWork_deviceWithdraw (kind : OverrideKind) (s : State) : StackWork s (deviceWithdraw kind s) := by
  unfold deviceWithdraw
  split
  · exact stackWork_withStack s _ (stackLaw_withdrawn _)
  · exact StackWork.refl s

theorem stackWork_expiryNotice (s : State) : StackWork s (expiryNotice s) :=
  stackWork_withStack s _ stackLaw_countExpiry

end Sys2Proof.Laws
end

