-- ==== Sys2Proof/Laws/Kept.lean ====
section
/-! SUPPORT. The laws of every state taken together but for the bound on failed attempts, which REJOIN restores at
the end of a command; and that the operations of the node keep them. -/

namespace Sys2Proof.Laws

open Sys2Proof.Machine Sys2Proof.Safety

/-- The laws of Safety.lean, the bound on failed attempts apart. -/
structure Kept (s : State) : Prop where
  queue : s.lc.queue.length ≤ 8
  journal : s.ae.journal.length ≤ 40
  table : s.ae.committed.table.length = 16
  claims : s.ae.committed.queue.length ≤ 12
  history : s.smp.history.length ≤ 8
  lost : s.eiu.esd.lost ≤ 15 ∧ s.eiu.trip.lost ≤ 15 ∧ s.eiu.permit.lost ≤ 15 ∧ s.eiu.aux.lost ≤ 15
  image : s.pp.image.length = 20 ∧ s.pp.written.length = 20
  stack : stackLaw s.ovs.stack
  link : linkLaw s
  one : oneEach s.lc
  round : roundLaw s
  timers : timerLaw s
  cap : capLaw s

/-- The laws hold with the bound on failed attempts. -/
theorem Kept.withinCapacity {s : State} (h : Kept s) (ha : s.ttu.attempts < 3) : withinCapacity s :=
  ⟨h.queue, h.journal, h.table, h.claims, ha, h.history, h.lost.1, h.lost.2.1, h.lost.2.2.1, h.lost.2.2.2,
    h.image.1, h.image.2⟩

/-- The laws read only these parts of the state. -/
theorem Kept.congr {s t : State} (h : Kept s) (hlc : t.lc.queue = s.lc.queue) (hon : t.lc.onLine = s.lc.onLine)
    (hj : t.ae.join = s.ae.join) (hjo : t.ae.journal = s.ae.journal) (hc : t.ae.committed = s.ae.committed)
    (hr : t.ae.round = s.ae.round) (hrt : t.ae.roundTimer = s.ae.roundTimer)
    (hst : t.ae.silenceTimer = s.ae.silenceTimer) (hcap : t.ae.cap = s.ae.cap)
    (hph : asking t.ttu.phase = true → asking s.ttu.phase = true) (hsm : t.smp.history = s.smp.history)
    (hei : t.eiu.esd.lost = s.eiu.esd.lost ∧ t.eiu.trip.lost = s.eiu.trip.lost ∧
      t.eiu.permit.lost = s.eiu.permit.lost ∧ t.eiu.aux.lost = s.eiu.aux.lost)
    (him : t.pp.image = s.pp.image) (hwr : t.pp.written = s.pp.written)
    (hov : t.ovs = s.ovs) (hvd : t.vd.baseSetpoint = s.vd.baseSetpoint) : Kept t where
  queue := by rw [hlc]; exact h.queue
  journal := by rw [hjo]; exact h.journal
  table := by rw [hc]; exact h.table
  claims := by rw [hc]; exact h.claims
  history := by rw [hsm]; exact h.history
  lost := by rw [hei.1, hei.2.1, hei.2.2.1, hei.2.2.2]; exact h.lost
  image := by rw [him, hwr]; exact h.image
  stack := by rw [hov]; exact h.stack
  link := by have := h.link; unfold linkLaw at *; rw [hlc, hon, hj]; exact this
  one := (noMore_of_eq hlc hon).one h.one
  round := by
    have := h.round
    unfold roundLaw at *
    rw [hj, hr]
    exact ⟨fun a => this.1 (a.imp_right (Or.imp_right hph)), fun a => this.2 (hph a)⟩
  timers := by have := h.timers; unfold timerLaw at *; rw [hj, hrt, hst]; exact this
  cap := by have := h.cap; unfold capLaw at *; rw [hj, hcap, hvd]; exact this

/-! The transmit queue's work and the stack's work keep the laws. -/

theorem Kept.queueWork {s t : State} (h : Kept s) (w : QueueWork s t) : Kept t where
  queue := w.length h.queue
  journal := by rw [w.ae]; exact h.journal
  table := by rw [w.ae]; exact h.table
  claims := by rw [w.ae]; exact h.claims
  history := by rw [w.smp]; exact h.history
  lost := by rw [w.eiu]; exact h.lost
  image := by rw [w.pp]; exact h.image
  stack := by rw [w.ovs]; exact h.stack
  one := w.one h.one
  link := by
    obtain ⟨h1, h2⟩ := h.link
    refine ⟨fun a => w.kept (w.onLine ▸ a) (h1 (w.onLine ▸ a)), ?_⟩
    rw [w.join]
    have hb := w.bodies
    split at h2 <;> rename_i hj <;> rw [hj] at hb
    · refine List.eq_nil_iff_forall_not_mem.2 fun q hq => ?_
      rcases hb q hq with ⟨r, hr, _⟩ | ha
      · rw [h2] at hr; simp at hr
      · simp [admits] at ha
    · refine List.eq_nil_iff_forall_not_mem.2 fun q hq => ?_
      rcases hb q hq with ⟨r, hr, _⟩ | ha
      · rw [h2] at hr; simp at hr
      · simp [admits] at ha
    · intro q hq
      rcases hb q hq with ⟨r, hr, e⟩ | ha
      · rw [← e]; exact h2 r hr
      · revert ha
        cases q.body <;> simp [admits, listeningFrame]
    · trivial
    · trivial
  round := by
    have := h.round
    unfold roundLaw at *
    rw [w.join, w.round]
    exact ⟨fun a => this.1 (a.imp_right (Or.imp_right w.asking)), fun a => this.2 (w.asking a)⟩
  timers := by have := h.timers; unfold timerLaw at *; rw [w.ae]; exact this
  cap := by have := h.cap; unfold capLaw at *; rw [w.ae, w.vd]; exact this

theorem Kept.stackWork {s t : State} (h : Kept s) (w : StackWork s t) : Kept t where
  queue := by rw [w.lc]; exact h.queue
  journal := by rw [w.ae]; exact h.journal
  table := by rw [w.ae]; exact h.table
  claims := by rw [w.ae]; exact h.claims
  history := by rw [w.smp]; exact h.history
  lost := by rw [w.eiu]; exact h.lost
  image := by rw [w.pp]; exact h.image
  stack := w.law h.stack
  link := by have := h.link; unfold linkLaw at *; rw [w.lc, w.ae]; exact this
  one := by rw [w.lc]; exact h.one
  round := by have := h.round; unfold roundLaw at *; rw [w.ae, w.ttu]; exact this
  timers := by have := h.timers; unfold timerLaw at *; rw [w.ae]; exact this
  cap := by have := h.cap; unfold capLaw at *; rw [w.ae, w.baseSetpoint]; exact this

/-- A base setpoint handed on: only the cap's law reads it. -/
theorem Kept.handSetpoint {s : State} (h : Kept s) (v : Word16)
    (hv : s.ae.join = .diverged → ∀ c ∈ s.ae.cap, v.toNat ≤ c.toNat) : Kept (handSetpoint v s) :=
  { h with
    cap := fun hj => by
      obtain ⟨c, hc, _⟩ := h.cap hj
      exact ⟨c, hc, hv hj c hc⟩ }

theorem Kept.giveLead {s : State} (h : Kept s) (b : Bool) : Kept (giveLead b s) := { h with }

theorem Kept.raiseEvent {s : State} (h : Kept s) (e : EventFlag) : Kept (raiseEvent e s) := { h with }

theorem Kept.raiseIf {s : State} (h : Kept s) (c : Bool) (e : EventFlag) : Kept (raiseIf c e s) := by
  cases c
  · exact h
  · exact h.raiseEvent e

/-! The stages of a close keep the sizes of table and queue (R1, R52). -/

theorem length_withVerdict (t : List Entry) (a : Address) (v : Verdict) :
    (withVerdict t a v).length = t.length := by simp [withVerdict, withEntry]

theorem length_presenceStage (j : List Record) (t : List Entry) : (presenceStage j t).length = 16 := rfl

/-- The claim stage keeps the table's length and the queue within 12. -/
theorem claimRecord_sizes (p : ClaimPass) (r : Record) (h : p.queue.length ≤ 12) :
    (claimRecord p r).table.length = p.table.length ∧ (claimRecord p r).queue.length ≤ 12 := by
  have hf : ∀ (q : QueueEntry → Bool), (p.queue.filter q).length ≤ 12 := fun q =>
    (List.length_filter_le _ _).trans h
  unfold claimRecord
  split
  · split
    · unfold claimNew
      split
      · exact ⟨length_withVerdict .., h⟩
      · split
        · exact ⟨length_withVerdict .., h⟩
        · split
          · exact ⟨length_withVerdict .., h⟩
          · split
            · exact ⟨length_withVerdict .., h⟩
            · rename_i hc
              simp [claimCapacity] at hc
              exact ⟨rfl, by simp; omega⟩
    · unfold claimHeld
      split
      · exact ⟨length_withVerdict .., hf _⟩
      · split
        · exact ⟨length_withVerdict .., h⟩
        · exact ⟨rfl, by simpa [changeEntry] using h⟩
  · split
    · exact ⟨rfl, h⟩
    · unfold yieldHeld
      split
      · exact ⟨length_withVerdict .., hf _⟩
      · split
        · exact ⟨rfl, by simpa [changeEntry] using h⟩
        · exact ⟨length_withVerdict .., h⟩
  all_goals exact ⟨rfl, h⟩

theorem claimStage_sizes (j : List Record) (t : List Entry) (q : List QueueEntry) (h : q.length ≤ 12) :
    (claimStage j t q).table.length = t.length ∧ (claimStage j t q).queue.length ≤ 12 := by
  unfold claimStage
  generalize afterAnnounce j = rs
  have key : ∀ (p : ClaimPass), p.queue.length ≤ 12 →
      (rs.foldl claimRecord p).table.length = p.table.length ∧ (rs.foldl claimRecord p).queue.length ≤ 12 := by
    induction rs with
    | nil => exact fun p hp => ⟨rfl, hp⟩
    | cons r rs ih =>
      intro p hp
      obtain ⟨h1, h2⟩ := claimRecord_sizes p r hp
      obtain ⟨h3, h4⟩ := ih _ h2
      exact ⟨h3.trans h1, h4⟩
  exact key _ ((List.length_filter_le _ _).trans h)

theorem length_writeVerdicts (vs : List (Address × Verdict)) (t : List Entry) :
    (writeVerdicts t vs).length = t.length := by
  unfold writeVerdicts
  induction vs generalizing t with
  | nil => rfl
  | cons v vs ih => rw [List.foldl_cons, ih, length_withVerdict]

theorem length_grantWalk (m g : Nat) (k : Word16) (cum : Nat) (q : List QueueEntry) :
    (grantWalk m g k cum q).1.length = q.length := by
  induction q generalizing cum with
  | nil => rfl
  | cons a l ih => simp [grantWalk, ih]

theorem allocationStage_sizes (c : Committed) (marked written : Word16) :
    (allocationStage c marked written).state.table.length = c.table.length ∧
      (allocationStage c marked written).state.queue.length = c.queue.length := by
  unfold allocationStage
  dsimp only
  split
  · simp
  · simp [length_writeVerdicts, length_grantWalk]

theorem closeState_sizes (c : Committed) (j : List Record) (h : c.queue.length ≤ 12) :
    (closeState c j).state.table.length = 16 ∧ (closeState c j).state.queue.length ≤ 12 := by
  have hs := claimStage_sizes j (presenceStage j c.table) c.queue h
  unfold closeState
  dsimp only
  rw [(allocationStage_sizes _ _ _).1, (allocationStage_sizes _ _ _).2]
  exact hs

end Sys2Proof.Laws
end

