-- ==== Sys2Proof/Laws/Rounds.lean ====
section
/-! SUPPORT. The close, the load, REJOIN, founding, the address clash, RESTART and the delivery of frames keep the
laws of every state. -/

namespace Sys2Proof.Laws

open Sys2Proof.Machine Sys2Proof.Safety

/-! Own frames. -/

theorem kept_latchAndReport {s : State} (h : Kept s) : Kept (latchAndReport s) := by
  have h1 : Kept (s.setAe { s.ae with latched := s.smp.smoothed }) := { h with }
  exact h1.queueWork (queueWork_offerPlain _ _)

theorem queueWork_automaticTake (s : State) : QueueWork s (automaticTake s) := by
  unfold automaticTake
  split
  · exact queueWork_offerPlain _ _
  · exact QueueWork.refl s

theorem queueWork_reofferHold (s : State) : QueueWork s (reofferHold s) := by
  unfold reofferHold
  have key : ∀ (hs : List HeldFrame) (t : State), QueueWork s t →
      QueueWork s (hs.foldl (fun s h => offerPlain (heldBody h) s) t) := by
    intro hs
    induction hs with
    | nil => exact fun t h => h
    | cons a l ih => exact fun t h => ih _ (h.trans (queueWork_offerPlain _ _))
  exact key _ _ (queueWork_setAe _ s rfl)

/-! Asking and serving. -/

/-- An ASK puts the TTU in an attempt, so the round must be known. -/
theorem kept_offerAsk {s : State} (h : Kept s) (hr : s.ae.round ≠ 0) (a : Address) : Kept (offerAsk a s) := by
  unfold offerAsk
  dsimp only
  generalize hq : (QueuedFrame.mk (.ask a (s.ttu.attempts + 1)) .ttu true 0) = q
  have hw := queueWork_offerFrame q s
  have h1 := h.queueWork hw
  split
  · rename_i ha
    have hadm := admits_of_offerFrame ha
    have hb : q.body = .ask a (s.ttu.attempts + 1) := by rw [← hq]
    exact { h1 with
      round := by
        refine ⟨fun _ => ?_, fun _ => ?_⟩
        · have := hw.round
          simpa [this] using hr
        · have := hw.join
          simp only [setTtu_ae, this]
          rw [hb] at hadm
          constructor <;> intro e <;> rw [e] at hadm <;> simp [admits] at hadm }
  · exact h1.queueWork (queueWork_attemptFail _)

theorem kept_askChosen {s : State} (h : Kept s) (hr : s.ae.round ≠ 0) (server : Option Address) :
    Kept (askChosen server s) := by
  unfold askChosen
  split
  · exact h
  · split
    · exact kept_offerAsk h hr _
    · exact h

theorem queueWork_askSent (s : State) : QueueWork s (askSent s) := by
  unfold askSent
  split
  · exact queueWork_setTtu _ s id
  all_goals exact QueueWork.refl s

theorem queueWork_offerBlock (b : FrameBody) (s : State) : QueueWork s (offerBlock b s) := by
  unfold offerBlock
  dsimp only
  split
  · exact queueWork_offerFrame _ _
  · exact (queueWork_offerFrame _ _).trans (queueWork_servingEnd _)

theorem queueWork_beginServing (a : Address) (n : Nat) (s : State) : QueueWork s (beginServing a n s) :=
  (queueWork_setTtu _ s (by simp [Safety.asking])).trans (queueWork_offerBlock _ _)

theorem queueWork_refuseAsk (a : Address) (n : Nat) (b : BlockStatus) (s : State) :
    QueueWork s (refuseAsk a n b s) := queueWork_offerFrame _ _

theorem queueWork_askReceived (a v : Address) (n : Nat) (s : State) : QueueWork s (askReceived a v n s) := by
  unfold askReceived
  split
  · exact QueueWork.refl s
  · split
    · exact queueWork_refuseAsk ..
    · split
      · exact queueWork_beginServing ..
      · split
        · exact (queueWork_servingEnd s).trans (queueWork_beginServing ..)
        · exact queueWork_refuseAsk ..
      all_goals exact queueWork_refuseAsk ..

theorem queueWork_blockSent (s : State) : QueueWork s (blockSent s) := by
  unfold blockSent
  split
  · split
    · exact (queueWork_setTtu _ s (by simp [Safety.asking])).trans (queueWork_offerBlock _ _)
    · exact queueWork_servingEnd s
  all_goals exact QueueWork.refl s

theorem queueWork_headerReceived (b : BlockStatus) (n : Nat) (r d : Word16) (s : State) :
    QueueWork s (headerReceived b n r d s) := by
  unfold headerReceived
  split
  · rename_i e
    split
    · exact (queueWork_setTtu _ s (fun _ => by rw [e]; rfl)).trans (queueWork_untrack _ _)
    · exact queueWork_attemptFail s
  · exact queueWork_attemptFail s
  all_goals exact QueueWork.refl s

/-! Results of a close. -/

theorem capped_le (c v : Word16) : (capped (some c) v).toNat ≤ c.toNat := by
  unfold capped
  dsimp only
  split
  · assumption
  · exact le_refl _

theorem kept_handResults {s : State} (h : Kept s) : Kept (handResults s) := by
  refine (h.handSetpoint _ fun _ c hc => ?_).giveLead _
  have hc' : s.ae.cap = some c := hc
  rw [hc']
  exact capped_le _ _

theorem kept_plantTripReconcile {s : State} (h : Kept s) : Kept (plantTripReconcile s) := by
  have h1 : ∀ b, Kept (s.setAe { s.ae with plantTrip := b }) := fun b => { h with }
  unfold plantTripReconcile
  split
  · exact h
  · split
    · exact (h1 _).stackWork (stackWork_devicePush _ _)
    · split
      · exact (h1 _).stackWork (stackWork_deviceWithdraw _ _)
      · exact h

theorem kept_ownLiveNotice {s : State} (h : Kept s) : Kept (ownLiveNotice s) := by
  have h1 : Kept (s.setAe { s.ae with ownLive := true }) := { h with }
  unfold ownLiveNotice
  dsimp only
  split
  · split
    · exact (h1.stackWork (stackWork_deviceWithdraw _ _)).stackWork (stackWork_deviceWithdraw _ _)
    · exact h1.stackWork (stackWork_deviceWithdraw _ _)
  · exact h

theorem queueWork_failAttempt (s : State) : QueueWork s (failAttempt s) := by
  unfold failAttempt
  split
  · exact queueWork_attemptFail s
  · exact QueueWork.refl s

theorem kept_closeNotice {s : State} (h : Kept s) (hr : s.ae.round ≠ 0) (b : Bool) (server : Option Address) :
    Kept (closeNotice b server s) := by
  have h1 : QueueWork s (if b then attemptEnd s else failAttempt s) := by
    split
    · exact queueWork_attemptEnd s
    · exact queueWork_failAttempt s
  unfold closeNotice
  dsimp only
  generalize (if b then attemptEnd s else failAttempt s) = t at h1
  have h2 : QueueWork s (if isServing t.ttu.phase then servingEnd t else t) := by
    split
    · exact h1.trans (queueWork_servingEnd t)
    · exact h1
  exact kept_askChosen (h.queueWork h2) (by rw [h2.round]; exact hr) server

theorem kept_closeEvents {s : State} (h : Kept s) (a : AllocationEngine) (w : Word16) :
    Kept (closeEvents a w s) :=
  ((((((((h.raiseIf _ _).raiseIf _ _).raiseIf _ _).raiseIf _ _).raiseIf _ _).raiseIf _ _).raiseIf _ _).raiseIf
    _ _)

theorem kept_demandClosed {s : State} (h : Kept s) : Kept (demandClosed s) := by
  unfold demandClosed
  split
  · exact { h with }
  · exact h

/-! The close. -/

/-- The join state after stage 1 of a JOINED or DIVERGED node is JOINED or DIVERGED. -/
theorem joinAfterTally_inRounds (own : Address) (j : JoinState) (t : Tally) (h : inRounds j = true) :
    inRounds (joinAfterTally own j t) = true := by
  cases j <;> simp [inRounds] at h <;> unfold joinAfterTally <;> dsimp only <;> split <;> rfl

/-- The round after the open one is never 0 (R36). -/
theorem nextRound_ne_zero (r : Word16) : nextRound r ≠ 0 := by
  unfold nextRound
  split
  · decide
  · rename_i h
    intro h0
    apply h
    have : r = -1 := eq_neg_of_add_eq_zero_left h0
    rw [this]
    decide

/-- A JOINED or DIVERGED node may hold any frame. -/
theorem linkLaw_inRounds {s : State} (h : s.lc.onLine.isSome = true → s.lc.queue ≠ [])
    (hj : inRounds s.ae.join = true) : linkLaw s := by
  refine ⟨h, ?_⟩
  cases e : s.ae.join <;> rw [e] at hj <;> simp [inRounds] at hj ⊢

theorem kept_closedEngine {s : State} (h : Kept s) (hj : inRounds s.ae.join = true) (next : Word16)
    (hn : next ≠ 0) : Kept (s.setAe (s.closedEngine next)) := by
  have hcj : inRounds s.closeJoin = true := joinAfterTally_inRounds _ _ _ hj
  have hsz := closeState_sizes s.ae.committed s.ae.journal h.claims
  have hs : s.ae.silenceTimer = .stopped := by
    have h3 := h.timers.2.2
    by_contra hne
    rw [h3.2 hne] at hj
    simp [inRounds] at hj
  exact
    { queue := h.queue
      journal := by simp [State.closedEngine]
      table := hsz.1
      claims := hsz.2
      history := h.history
      lost := h.lost
      image := h.image
      stack := h.stack
      link := linkLaw_inRounds h.link.1 hcj
      one := h.one
      round := by
        refine ⟨fun _ => hn, fun _ => ?_⟩
        change s.closeJoin ≠ _ ∧ s.closeJoin ≠ _
        constructor <;> intro e <;> rw [e] at hcj <;> simp [inRounds] at hcj
      timers := by
        refine ⟨fun e => ?_, fun _ => rfl, ?_⟩
        · change s.closeJoin = _ at e
          rw [e] at hcj
          simp [inRounds] at hcj
        · refine ⟨fun e => ?_, fun e => absurd hs e⟩
          change s.closeJoin = _ at e
          rw [e] at hcj
          simp [inRounds] at hcj
      cap := fun e => by
        change s.closeJoin = _ at e
        change ∃ c, s.closeCap = some c ∧ _
        unfold State.closeCap
        rw [e]
        revert hj
        cases hjj : s.ae.join <;> simp [inRounds]
        exact h.cap hjj }

theorem kept_performClose {s : State} (h : Kept s) (hj : inRounds s.ae.join = true) (next : Word16)
    (hn : next ≠ 0) : Kept (performClose next s) := by
  unfold performClose
  dsimp only
  have h1 := (kept_closedEngine h hj next hn).queueWork (queueWork_withdrawMark _)
  have hr1 : (withdrawMark (s.setAe (s.closedEngine next))).ae.round = next :=
    (queueWork_withdrawMark (s.setAe (s.closedEngine next))).round
  generalize withdrawMark (s.setAe (s.closedEngine next)) = t at h1 hr1
  have h2 := kept_ownLiveNotice (kept_plantTripReconcile (kept_handResults h1))
  have hr2 : (ownLiveNotice (plantTripReconcile (handResults t))).ae.round = next := by
    rw [← hr1]
    unfold ownLiveNotice plantTripReconcile
    dsimp only
    split_ifs <;>
      simp [(stackWork_deviceWithdraw _ _).ae, (stackWork_devicePush _ _).ae, handResults, handSetpoint, giveLead,
        retarget]
  generalize ownLiveNotice (plantTripReconcile (handResults t)) = u at h2 hr2
  have h3 := kept_closeNotice h2 (by rw [hr2]; exact hn)
    (decide (s.ae.join = .diverged ∧ s.closeJoin = .joined)) s.closeServer
  generalize closeNotice (decide (s.ae.join = .diverged ∧ s.closeJoin = .joined)) s.closeServer u = v at h3
  have h4 : Kept (if v.ae.committed.offer then automaticTake v else v) := by
    split
    · exact h3.queueWork (queueWork_automaticTake v)
    · exact h3
  exact kept_demandClosed (kept_closeEvents (kept_latchAndReport (h4.queueWork (queueWork_reofferHold _))) _ _)

theorem queueWork_announceOnce (s : State) : QueueWork s (announceOnce s) := by
  unfold announceOnce
  dsimp only
  split
  · exact QueueWork.refl s
  · split
    · exact (queueWork_offerFrame _ _).trans (queueWork_setAe _ _ rfl)
    · exact queueWork_offerFrame _ _

theorem kept_witnessClose {s : State} (h : Kept s) (next : Word16) (hn : next ≠ 0) :
    Kept (witnessClose next s) := by
  have h1 : Kept (s.setAe { s.ae with journal := [], round := next }) :=
    { h with
      journal := by simp
      round := ⟨fun _ => hn, h.round.2⟩ }
  unfold witnessClose
  dsimp only
  generalize hs : s.setAe { s.ae with journal := [], round := next } = t at h1
  have hrt : t.ae.round = next := by rw [← hs]; rfl
  have h2 : QueueWork t (if holdsStatus s.ae.journal then announceOnce t else t) := by
    split
    · exact queueWork_announceOnce t
    · exact QueueWork.refl t
  exact kept_closeNotice (h1.queueWork h2) (by rw [h2.round, hrt]; exact hn) _ _

theorem kept_closeInto {s : State} (h : Kept s) (next : Word16) (hn : next ≠ 0) : Kept (closeInto next s) := by
  unfold closeInto
  split
  · rename_i e; exact kept_performClose h (by rw [e]; rfl) next hn
  · rename_i e; exact kept_performClose h (by rw [e]; rfl) next hn
  · exact kept_witnessClose h next hn
  · exact h
  · exact h

theorem kept_takeMark {s : State} (h : Kept s) (carried : Word16) : Kept (takeMark carried s) := by
  have hd : Kept (countDuplicate s) := h.queueWork (queueWork_counters _ s)
  have hsl : Kept (countSlip s) := h.queueWork (queueWork_counters _ s)
  unfold takeMark
  split
  · exact h
  · exact h
  all_goals
    split
    · split
      · exact hd
      · rename_i hc
        exact { h with
          journal := by simp
          round := ⟨fun _ => hc, h.round.2⟩ }
    · unfold markKnown
      split
      · rename_i e
        exact kept_closeInto h _ (by rw [e]; exact nextRound_ne_zero _)
      · split
        · exact hd
        · rename_i hc
          exact kept_closeInto hsl _ (fun e => hc (Or.inr e))

end Sys2Proof.Laws
end

