-- ==== Sys2Proof/Laws/Joins.lean ====
section
/-! SUPPORT. The load, REJOIN, founding, the address clash, the close of the profile window, RESTART and the delivery
of frames keep the laws of every state. -/

namespace Sys2Proof.Laws

open Sys2Proof.Machine Sys2Proof.Safety

/-! The load. -/

theorem length_loadedState (body : List Byte) (h : bodyQueueCount body ≤ 12) :
    (loadedState body).table.length = 16 ∧ (loadedState body).queue.length ≤ 12 := by
  refine ⟨rfl, ?_⟩
  simpa [loadedState] using h

theorem kept_raiseMoved {s : State} (h : Kept s) (a : AllocationEngine) : Kept (raiseMoved a s) :=
  ((h.raiseIf _ _).raiseIf _ _).raiseIf _ _

theorem kept_loadSnapshot {s : State} (h : Kept s) (hr : s.ae.round ≠ 0) (hp : s.ae.join ≠ .profile) (body : List Byte) (digest : Word16)
    (hb : bodyQueueCount body ≤ 12) : Kept (loadSnapshot body digest s) := by
  have hsz := length_loadedState body hb
  have h1 : Kept ((s.setTtu (idleTransfer 0)).setAe (s.loadedEngine body digest)) :=
    { queue := h.queue
      journal := h.journal
      table := hsz.1
      claims := hsz.2
      history := h.history
      lost := h.lost
      image := h.image
      stack := h.stack
      link := linkLaw_inRounds h.link.1 rfl
      one := h.one
      round := ⟨fun _ => hr, fun e => by simp [idleTransfer, Safety.asking] at e⟩
      timers := by
        refine ⟨fun e => ?_, fun _ => ?_, ?_⟩
        · simp [State.loadedEngine] at e
        · change runs s.ae.roundTimer = true
          exact h.timers.2.1 hp
        · simp [State.loadedEngine]
      cap := fun e => by simp [State.loadedEngine] at e }
  unfold loadSnapshot
  dsimp only
  exact kept_raiseMoved
    (((kept_latchAndReport (kept_plantTripReconcile (kept_handResults h1))).raiseEvent _).raiseEvent _) _

theorem kept_checkSnapshot {s : State} (h : Kept s) (hr : s.ae.round ≠ 0) (hp : s.ae.join ≠ .profile)
    (body : List Byte) (digest : Word16) : Kept (checkSnapshot body digest s) := by
  unfold checkSnapshot
  split
  · rename_i ha
    exact kept_loadSnapshot h hr hp body digest (of_decide_eq_true ha).1
  · exact h.queueWork (queueWork_attemptFail s)

theorem kept_dataReceived {s : State} (h : Kept s) (r : Word16) (i : Nat) (bytes : List Byte) :
    Kept (dataReceived r i bytes s) := by
  unfold dataReceived
  split
  · rename_i e
    have ha : Safety.asking s.ttu.phase = true := by rw [e]; rfl
    have hr := h.round.1 (Or.inr (Or.inr ha))
    have hp := (h.round.2 ha).1
    dsimp only
    split
    · split
      · exact kept_checkSnapshot h hr hp _ _
      · exact h.queueWork (queueWork_setTtu _ s fun _ => ha)
    · exact h.queueWork (queueWork_attemptFail s)
  · exact h.queueWork (queueWork_attemptFail s)
  all_goals exact h

/-! LISTENING afresh. -/

/-- An emptied queue keeps the link's law whatever the join state. -/
theorem linkLaw_emptied {s : State} (hq : s.lc.queue = []) (ho : s.lc.onLine = none) : linkLaw s := by
  refine ⟨by simp [ho], ?_⟩
  split <;> simp [hq]

/-- An empty queue holds no two frames of a class. -/
theorem oneEach_emptied {lc : LinkController} (hq : lc.queue = []) : oneEach lc := by
  unfold oneEach waitingFrames
  simp [hq]

/-- The node in LISTENING with its committed state cleared, nothing queued, and no attempt. -/
theorem kept_listening {s t : State} (h : Kept s) (a : AllocationEngine) (line : LineState)
    (ha : t.ae = listeningEngine a t.now line ∨ t.ae = restartedEngine a t.now line) (hq : t.lc.queue = []) (ho : t.lc.onLine = none)
    (ht : Safety.asking t.ttu.phase = false) (hov : stackLaw t.ovs.stack) (hsm : t.smp.history.length ≤ 8)
    (hei : t.eiu.esd.lost = s.eiu.esd.lost ∧ t.eiu.trip.lost = s.eiu.trip.lost ∧
      t.eiu.permit.lost = s.eiu.permit.lost ∧ t.eiu.aux.lost = s.eiu.aux.lost)
    (him : t.pp.image = s.pp.image ∧ t.pp.written = s.pp.written) : Kept t := by
  have hj : t.ae.join = .listening := by rcases ha with e | e <;> rw [e] <;> rfl
  have hsil : t.ae.silenceTimer ≠ .stopped := by
    rcases ha with e | e <;> rw [e] <;> simp only [restartedEngine, listeningEngine] <;> split <;> simp
  exact
    { queue := by simp [hq]
      journal := by rcases ha with e | e <;> rw [e] <;> simp [restartedEngine, listeningEngine]
      table := by rcases ha with e | e <;> rw [e] <;> rfl
      claims := by rcases ha with e | e <;> rw [e] <;> simp [restartedEngine, listeningEngine, clearedState]
      history := hsm
      lost := by rw [hei.1, hei.2.1, hei.2.2.1, hei.2.2.2]; exact h.lost
      image := by rw [him.1, him.2]; exact h.image
      stack := hov
      link := linkLaw_emptied hq ho
      one := oneEach_emptied hq
      round := by
        refine ⟨fun e => ?_, fun e => by rw [ht] at e; exact absurd e (by decide)⟩
        rw [hj, ht] at e
        simp at e
      timers := by
        refine ⟨by simp [hj], fun _ => ?_, by simp [hj, hsil]⟩
        rcases ha with e | e <;> rw [e] <;> rfl
      cap := by simp [capLaw, hj] }

theorem kept_performRejoin {s : State} (h : Kept s) : Kept (performRejoin s) := by
  unfold performRejoin
  dsimp only
  refine Kept.raiseEvent (Kept.giveLead (Kept.handSetpoint (Kept.stackWork ?_ (stackWork_devicePush _ _)) _ ?_) _) _
  · exact kept_listening h s.ae s.lc.line (Or.inl rfl) rfl rfl rfl h.stack h.history ⟨rfl, rfl, rfl, rfl⟩ ⟨rfl, rfl⟩
  · rw [(stackWork_devicePush _ _).ae]
    intro e
    simp [listeningEngine] at e

theorem attempts_performRejoin (s : State) : (performRejoin s).ttu.attempts = 0 := by
  unfold performRejoin
  simp [giveLead, handSetpoint, retarget, (stackWork_devicePush _ _).ttu, emptyQueue, idleTransfer]

theorem kept_settle {s : State} (h : Kept s) : Kept (settle s) := by
  unfold settle
  split
  · exact kept_performRejoin h
  · exact h

/-- After `settle` fewer than three attempts have failed (R113). -/
theorem attempts_settle (s : State) : (settle s).ttu.attempts < 3 := by
  unfold settle
  split
  · rw [attempts_performRejoin]; decide
  · rename_i h
    simp [attemptLimit] at h
    exact h

/-! Founding. -/

theorem kept_performFounding {s : State} (h : Kept s) : Kept (performFounding s) := by
  unfold performFounding
  dsimp only
  have h0 : QueueWork s (attemptEnd s) := queueWork_attemptEnd s
  have h1 := h.queueWork h0
  have hph : Safety.asking (attemptEnd s).ttu.phase = false := rfl
  generalize attemptEnd s = t at h0 h1 hph
  refine kept_latchAndReport (Kept.queueWork (Kept.queueWork (Kept.giveLead (Kept.handSetpoint
    (Kept.raiseEvent ?_ _) _ ?_) _) (queueWork_offerPlain _ _)) (queueWork_offerPlain _ _))
  · exact
      { queue := h1.queue
        journal := by simp
        table := rfl
        claims := by simp [clearedState]
        history := h1.history
        lost := h1.lost
        image := h1.image
        stack := h1.stack
        link := linkLaw_inRounds h1.link.1 rfl
        one := h1.one
        round := ⟨fun _ => by simp, fun e => by simp [hph] at e⟩
        timers := ⟨by simp, fun _ => rfl, by simp⟩
        cap := by simp [capLaw] }
  · intro e
    simp at e

theorem attempts_offerPlain_ordinary (b : FrameBody) (s : State) (h : frameClass b = .ordinary) :
    (offerPlain b s).ttu = s.ttu := (offerFrame_ordinary _ s h).1

/-- Founding leaves fewer than three failed attempts. -/
theorem attempts_performFounding (s : State) : (performFounding s).ttu.attempts < 3 := by
  unfold performFounding latchAndReport
  dsimp only
  refine lt_of_le_of_lt (attempts_offerFrame _ _) ?_
  rw [setAe_ttu, attempts_offerPlain_ordinary _ _ rfl]
  refine Nat.lt_of_lt_of_le (Nat.succ_lt_succ (lt_of_le_of_lt (attempts_offerFrame _ _) ?_)) (le_refl _)
  simp [giveLead, handSetpoint, retarget, attemptEnd, untrack, idleTransfer]

/-! Address clash. -/

theorem kept_performClash {s : State} (h : Kept s) : Kept (performClash s) := by
  unfold performClash
  dsimp only
  refine Kept.raiseEvent (Kept.raiseEvent (Kept.giveLead (Kept.stackWork ?_ (stackWork_devicePush _ _)) _) _) _
  exact
    { queue := by simp [emptyQueue]
      journal := by simp [mutedEngine]
      table := h.table
      claims := h.claims
      history := h.history
      lost := h.lost
      image := h.image
      stack := h.stack
      link := linkLaw_emptied rfl rfl
      one := oneEach_emptied rfl
      round := ⟨fun e => by simp [mutedEngine, emptyQueue, idleTransfer, Safety.asking] at e,
        fun e => by simp [emptyQueue, idleTransfer, Safety.asking] at e⟩
      timers := ⟨by simp [mutedEngine], fun _ => rfl, by simp [mutedEngine]⟩
      cap := by simp [capLaw, mutedEngine] }

/-! The profile window. -/

theorem kept_closeWindow {s : State} (h : Kept s) (hj : s.ae.join = .profile) : Kept (closeWindow s) := by
  have hq : s.lc.queue = [] := by have := h.link.2; rw [hj] at this; exact this
  have ho : s.lc.onLine = none := by
    have := h.link.1
    rw [hq] at this
    cases e : s.lc.onLine with
    | none => rfl
    | some l => simp [e] at this
  have hph : Safety.asking s.ttu.phase = false := by
    have := h.round.2
    cases e : Safety.asking s.ttu.phase with
    | false => rfl
    | true => exact absurd hj (this e).1
  unfold closeWindow
  dsimp only
  refine Kept.raiseEvent ?_ _
  exact
    { queue := h.queue
      journal := h.journal
      table := h.table
      claims := h.claims
      history := h.history
      lost := h.lost
      image := h.image
      stack := h.stack
      link := linkLaw_emptied hq ho
      one := oneEach_emptied hq
      round := by
        refine ⟨fun e => ?_, fun e => ?_⟩
        · simp [restartSilenceTimer, restartRoundTimer, handSetpoint, retarget, hph] at e
        · simp [restartSilenceTimer, restartRoundTimer, handSetpoint, retarget, hph] at e
      timers := by
        refine ⟨fun e => ?_, fun _ => rfl, ?_⟩
        · simp [restartSilenceTimer, restartRoundTimer, handSetpoint, retarget] at e
        · simp only [restartSilenceTimer, restartRoundTimer, handSetpoint, retarget, setAe_ae, setVd_ae, setSmp_ae,
            true_iff]
          by_cases hb : lineBusy s.lc.line = true <;> simp [hb]
      cap := by simp [capLaw, restartSilenceTimer, restartRoundTimer, handSetpoint, retarget] }

/-! RESTART. -/

theorem stackLaw_startHold : stackLaw [startHoldEntry] := by
  refine ⟨by decide, by decide, ?_⟩
  simp [startHoldEntry]

theorem kept_performRestart {s : State} (h : Kept s) (w : Word32) : Kept (performRestart w s) := by
  unfold performRestart
  dsimp only
  refine kept_listening h s.ae s.lc.line (Or.inr ?_) ?_ ?_ ?_ ?_ ?_ ?_ ?_ <;>
    simp [withStack, giveLead, handSetpoint, retarget, restartedLink, idleTransfer, Safety.asking, stackLaw_startHold,
      restartedSampler, restartedInputs, restedInput, restedAux, restartedPort]

/-! Delivery. -/

theorem kept_appendRecord {s : State} (h : Kept s) (r : Record) (hl : s.ae.journal.length < 40) :
    Kept (appendRecord r s) :=
  { h with journal := by simp [appendRecord]; omega }

theorem queueWork_offerHeard (r : Record) (s : State) : QueueWork s (offerHeard r s) := by
  unfold offerHeard
  split
  · split
    · exact queueWork_automaticTake s
    · exact QueueWork.refl s
  all_goals exact QueueWork.refl s

theorem queueWork_ownNotTaken (b : FrameBody) (k : Bool) (s : State) : QueueWork s (ownNotTaken b k s) := by
  unfold ownNotTaken
  split
  · cases k
    · exact queueWork_raiseEvent _ _
    · exact (queueWork_demandNotTaken s).trans (queueWork_raiseEvent _ _)
  · exact queueWork_raiseEvent _ _
  · exact queueWork_raiseEvent _ _
  · exact (queueWork_announceLost s).trans (queueWork_raiseEvent _ _)
  · exact (queueWork_holdFrame _ s).trans (queueWork_raiseEvent _ _)
  · exact (queueWork_holdFrame _ s).trans (queueWork_raiseEvent _ _)
  all_goals exact QueueWork.refl s

theorem kept_journalFrame {s : State} (h : Kept s) (o k : Bool) (f : GoodFrame) (r : Record) :
    Kept (journalFrame o k f r s) := by
  unfold journalFrame
  split
  · exact h
  · split
    · rename_i hl
      dsimp only
      have h1 : Kept (offerHeard r (appendRecord r s)) :=
        (kept_appendRecord h r hl).queueWork (queueWork_offerHeard _ _)
      split
      · unfold demandTaken
        split
        · exact { h1 with }
        · exact h1
      · exact h1
    · split
      · exact h.queueWork (queueWork_ownNotTaken _ _ _)
      · exact h

theorem kept_journalGap {s : State} (h : Kept s) : Kept (journalGap s) := by
  unfold journalGap
  split
  · rename_i hl
    exact kept_appendRecord h _ hl.2
  · exact h

theorem kept_deliverFrame {s : State} (h : Kept s) (o k : Bool) (f : GoodFrame) : Kept (deliverFrame o k f s) := by
  unfold deliverFrame
  split
  · exact kept_takeMark h _
  · exact h.queueWork (queueWork_askReceived _ _ _ _)
  · split
    · exact h.queueWork (queueWork_headerReceived _ _ _ _ _)
    · exact h
  · split
    · exact kept_dataReceived h _ _ _
    · exact h
  all_goals
    split
    · exact h
    · exact kept_journalFrame h _ _ _ _

theorem kept_acceptFrame {s : State} (h : Kept s) (a : Address) : Kept (acceptFrame a s) := { h with }

theorem kept_receiveGood {s : State} (h : Kept s) (own : OwnPart) (chars : List Byte) (f : GoodFrame) :
    Kept (receiveGood own chars f s) := by
  have h1 := kept_acceptFrame h f.sender
  unfold receiveGood
  dsimp only
  split
  · exact h1
  · split
    · exact kept_deliverFrame (kept_performClash h1) _ _ _
    · exact kept_deliverFrame h1 _ _ _

theorem kept_receiveFailed {s : State} (h : Kept s) : Kept (receiveFailed s) :=
  kept_journalGap (h.queueWork (queueWork_counters _ s))

theorem queueWork_sentNotice (q : QueuedFrame) (s : State) : QueueWork s (sentNotice q s) := by
  unfold sentNotice
  split
  · split
    · exact queueWork_askSent s
    · exact queueWork_blockSent s
    · exact queueWork_blockSent s
    all_goals exact QueueWork.refl s
  · exact QueueWork.refl s

end Sys2Proof.Laws
end

