-- ==== Sys2Proof/Laws/Link.lean ====
section
/-! SUPPORT. What the commands of the link can do to the transmit queue and the laws: a frame put on the line, stopped by
a collision, counted as sent, and the end of a frame. -/

namespace Sys2Proof.Laws

open Sys2Proof.Machine Sys2Proof.Safety

/-! The clock and the silence timer. -/

theorem kept_advanceTo {s : State} (h : Kept s) (due : Nat) : Kept (advanceTo due s) := { h with }

theorem kept_silenceTimer {s : State} (h : Kept s) (x : Timer) (hj : s.ae.join = .listening) (hx : x ≠ .stopped) :
    Kept (s.setAe { s.ae with silenceTimer := x }) :=
  { h with
    timers := by
      have := h.timers
      unfold timerLaw at *
      exact ⟨this.1, this.2.1, fun _ => hx, fun _ => hj⟩ }

theorem kept_silenceAtFrameStart {s : State} (h : Kept s) : Kept (silenceAtFrameStart s) := by
  unfold silenceAtFrameStart
  split
  · rename_i hj
    exact kept_silenceTimer h _ hj (by simp)
  · exact h

theorem kept_silenceAtFrameEnd {s : State} (h : Kept s) : Kept (silenceAtFrameEnd s) := by
  unfold silenceAtFrameEnd restartSilenceTimer
  split
  · rename_i hj
    refine kept_silenceTimer h _ hj ?_
    split <;> simp
  · exact h

/-! The queue under the line. -/

/-- A controller whose queue holds no frame that it did not hold keeps the law of what a node may send. -/
theorem linkLaw_subset {s : State} (h : linkLaw s) (lc : LinkController)
    (hon : lc.onLine.isSome = true → lc.queue ≠ []) (hq : ∀ q ∈ lc.queue, ∃ r ∈ s.lc.queue, r.body = q.body) :
    linkLaw (s.setLc lc) := by
  obtain ⟨_, h2⟩ := h
  refine ⟨hon, ?_⟩
  have none_left : s.lc.queue = [] → lc.queue = [] := fun e => List.eq_nil_iff_forall_not_mem.2 fun q m => by
    obtain ⟨r, m', _⟩ := hq q m
    rw [e] at m'
    simp at m'
  simp only [setLc_ae, setLc_lc]
  revert h2
  cases s.ae.join
  · exact none_left
  · intro h2 q m
    obtain ⟨r, m', e⟩ := hq q m
    exact e ▸ h2 r m'
  · exact id
  · exact id
  · exact none_left

/-- A controller that takes the place of the node's: no longer, no frame of another kind, no more MARKs or waiting
STATUS frames. -/
theorem kept_setLc {s : State} (h : Kept s) (lc : LinkController) (hl : lc.queue.length ≤ s.lc.queue.length)
    (hon : lc.onLine.isSome = true → lc.queue ≠ []) (hq : ∀ q ∈ lc.queue, ∃ r ∈ s.lc.queue, r.body = q.body)
    (one : oneEach lc) : Kept (s.setLc lc) :=
  { h with
    queue := hl.trans h.queue
    link := linkLaw_subset h.link lc hon hq
    one := one }

/-! FRAME_START. -/

theorem kept_startFrame {s : State} (h : Kept s) {q : QueuedFrame} {rest : List QueuedFrame}
    (hq : s.lc.queue = q :: rest) (ho : s.lc.onLine = none) : Kept (startFrame q s) := by
  unfold startFrame
  refine kept_silenceAtFrameStart (kept_setLc h _ le_rfl ?_ (fun r m => ⟨r, m, rfl⟩) ?_)
  · intro _ e
    simp [hq] at e
  · refine ⟨h.one.1, ?_⟩
    have := h.one.2
    simp only [waitingFrames, ho, Option.isSome_none, Bool.false_eq_true, if_false] at this
    simp only [waitingFrames, Option.isSome_some, if_true]
    rw [hq] at this ⊢
    exact (List.Sublist.countP_le (List.sublist_cons_self q rest)).trans this

/-! COLLISION. -/

theorem ofClass_collisions (c : FrameClass) (q : QueuedFrame) (n : Nat) :
    ofClass c { q with collisions := n } = ofClass c q := rfl

/-- The collided frame goes back without a second MARK or a second waiting STATUS (R30). -/
theorem oneEach_collided {s : State} (h : oneEach s.lc) {l : LineFrame} {q : QueuedFrame} {rest : List QueuedFrame}
    (hl : s.lc.onLine = some l) (hq : s.lc.queue = q :: rest) (lc : LinkController)
    (hw : lc.queue = withCollided q rest) (ho : lc.onLine = none) : oneEach lc := by
  obtain ⟨h1, h2⟩ := h
  simp only [waitingFrames, hl, Option.isSome_some, if_true, hq, List.tail_cons] at h2
  rw [hq] at h1
  unfold oneEach
  simp only [waitingFrames, ho, Option.isSome_none, Bool.false_eq_true, if_false]
  rw [hw]
  unfold withCollided
  split
  · exact ⟨(List.Sublist.countP_le (List.sublist_cons_self q rest)).trans h1, h2⟩
  · rename_i hn
    rw [List.countP_cons, List.countP_cons]
    rw [List.countP_cons] at h1
    refine ⟨h1, ?_⟩
    by_cases hs : ofClass .status q = true
    · have : rest.countP (ofClass .status) = 0 := countP_zero_of_any fun e => hn (by rw [hs, e]; rfl)
      rw [this, zero_add]
      split <;> omega
    · rw [if_neg (by rw [ofClass_collisions]; exact hs)]
      exact h2

theorem kept_collided {s : State} (h : Kept s) {l : LineFrame} {q : QueuedFrame} {rest : List QueuedFrame}
    (hl : s.lc.onLine = some l) (hq : s.lc.queue = q :: rest) : Kept (collided q rest s) := by
  have h1 : Kept (countCollision s) := h.queueWork (queueWork_counters _ s)
  refine kept_setLc h1 _ ?_ (fun e => by simp at e) ?_ (oneEach_collided h.one hl hq _ rfl rfl)
  · simp only [countCollision, setLc_lc, hq]
    unfold withCollided
    split <;> simp
  · intro x m
    simp only [countCollision, setLc_lc, hq]
    revert m
    simp only [withCollided]
    split
    · exact fun m => ⟨x, List.mem_cons_of_mem _ m, rfl⟩
    · intro m
      rcases List.mem_cons.1 m with rfl | m
      · exact ⟨q, by simp, rfl⟩
      · exact ⟨x, List.mem_cons_of_mem _ m, rfl⟩

theorem sublist_withCollided (q : QueuedFrame) (rest : List QueuedFrame) : rest.Sublist (withCollided q rest) := by
  unfold withCollided
  split
  · exact List.Sublist.refl rest
  · exact List.sublist_cons_self _ rest

theorem kept_discardHead {s : State} (h : Kept s) {q : QueuedFrame} {rest : List QueuedFrame}
    (hq : s.lc.queue = withCollided q rest) (ho : s.lc.onLine = none) : Kept (discardHead q rest s) := by
  have hs := sublist_withCollided q rest
  have h1 : Kept (countDiscard s) := h.queueWork (queueWork_countDiscard s)
  have h2 : Kept ((countDiscard s).setLc { (countDiscard s).lc with queue := rest }) := by
    refine kept_setLc h1 _ ?_ (fun e => ?_) (fun x m => ⟨x, ?_, rfl⟩) ?_
    · simpa [countDiscard, hq] using hs.length_le
    · simp [countDiscard, ho] at e
    · simpa [countDiscard, hq] using hs.subset m
    · have := h.one
      simp only [oneEach, waitingFrames, ho, Option.isSome_none, Bool.false_eq_true, if_false, hq] at this
      refine ⟨hs.countP_le.trans this.1, ?_⟩
      simpa [waitingFrames, countDiscard, ho] using hs.countP_le.trans this.2
  exact (h2.queueWork (queueWork_raiseIf _ _ _)).queueWork (queueWork_discardNotice _ _)

/-! FRAME_SENT and FRAME_END. -/

theorem kept_frameOff {s : State} (h : Kept s) (chars : List Byte) {q : QueuedFrame} {rest : List QueuedFrame}
    (hq : s.lc.queue = q :: rest) (ho : s.lc.onLine.isSome = true) : Kept (frameOff chars rest s) := by
  refine kept_setLc h _ (by simp [hq]) (fun e => by simp at e) (fun x m => ⟨x, by rw [hq]; exact List.mem_cons_of_mem _ m, rfl⟩) ?_
  have h1 := h.one.1
  have h2 := h.one.2
  simp only [waitingFrames, ho, if_true, hq, List.tail_cons] at h2
  rw [hq] at h1
  refine ⟨(List.Sublist.countP_le (List.sublist_cons_self q rest)).trans h1, ?_⟩
  simpa [waitingFrames] using h2

theorem kept_frameSent {s : State} (h : Kept s) (l : LineFrame) {q : QueuedFrame} {rest : List QueuedFrame}
    (hq : s.lc.queue = q :: rest) (ho : s.lc.onLine.isSome = true) : Kept (frameSent l q rest s) :=
  kept_settle ((kept_deliverFrame (kept_frameOff h _ hq ho) _ _ _).queueWork (queueWork_sentNotice _ _))

theorem kept_lineQuiet {s : State} (h : Kept s) (since : Nat) : Kept (lineQuiet since s) :=
  kept_silenceAtFrameEnd (kept_advanceTo (h.congr rfl rfl rfl rfl rfl rfl rfl rfl rfl id rfl ⟨rfl, rfl, rfl, rfl⟩ rfl rfl
    rfl rfl : Kept (s.setLc { s.lc with line := .quiet since none })) _)

theorem kept_receiveFrame {s : State} (h : Kept s) (own : OwnPart) (chars : List Byte) (framingError : Bool) :
    Kept (receiveFrame own chars framingError s) := by
  unfold receiveFrame
  split
  · exact kept_receiveGood h _ _ _
  · exact kept_receiveFailed h

end Sys2Proof.Laws
end

