-- ==== Sys2Proof/WellFormed.lean ====
section
/-! DEFINITION. Which commands the world outside can send. The operand types carry the ranges of the
addresses, levels, codes and words; two checks are left. -/

namespace Sys2Proof

/-- A frame is every character between one stretch of quiet and the next, so it has at least one (R17); a
node starts a frame only after the base gap of three quiet slots (R24). The meanings are total and do not
rest on this. -/
def Instr.wellFormed : Instr → Bool
  | .frameStart slots => decide (3 ≤ slots)
  | .frameEnd chars _ => !chars.isEmpty
  | .hardwareReset _ _ _ _ | .profileWindowExpiry | .collision | .frameSent | .roundTimerExpiry
  | .silenceTimerExpiry | .answerTimerExpiry | .stallTimerExpiry | .inputEdge _ _ | .esdEvent | .tripEvent
  | .permitEvent | .auxEvent | .in3DebounceExpiry | .flameProvingExpiry | .valvePeriodStart | .scanStart
  | .scanComplete _ | .exchangeStart | .exchangeEnd _ _ _ | .nop | .status | .contract | .window | .read
  | .events | .ack | .mask | .demand | .push | .pop | .handover | .tripClear | .release | .restart
  | .profileWord | .profileDone | .cancel | .illegalCommandCode | .startBitDetected => true

end Sys2Proof
end

