-- ==== Sys2Proof/Tests/Slice0.lean ====
section
/-! SUPPORT. The model's own tests: the well-formedness smoke, the worked sequences of the spec, and for every
statement with hypotheses a state that meets them, clause by clause. -/

namespace Sys2Proof.Tests

open Sys2Proof Sys2Proof.Machine Sys2Proof.Safety

/-! Well-formedness and the table's words. -/

theorem test_wellFormed_slots : (Instr.frameStart 2).wellFormed = false ∧ (Instr.frameStart 3).wellFormed = true := by
  decide

theorem test_wellFormed_frame :
    (Instr.frameEnd [] false).wellFormed = false ∧ (Instr.frameEnd [0] true).wellFormed = true := by decide

theorem test_no_row_has_bits : decodeTableWord 32 0 = none := by decide

/-! A small plant. -/

/-- Figures with age 0 in the first slots. -/
def figs (vs : List Word16) : List Figure :=
  vs.map (fun v => { value := v, age := 0 }) ++ List.replicate (8 - vs.length) clearedFigure

/-- A LIVE station. -/
def live (role : Role) (vs : List Word16) : Entry :=
  { presence := .live, role := some role, heard := 0, miss := 0, verdict := .none, figures := figs vs,
    governing := .base, flame := decide (role = .flare), dutyAllowed := decide (role = .flare) }

/-- A committed state with some stations in its table. -/
def plant (stations : List (Address × Entry)) : Committed :=
  { clearedState with
    table := addresses.map fun a => ((stations.find? fun p => decide (p.1 = a)).map (·.2)).getD clearedEntry }

/-- A node past its profile window, in a join state, with a round open. -/
def node (join : JoinState) (role : Role) (address : Address) : State :=
  let s := State.atReset address role { esd := false, trip := false, permit := false, aux := false } .none 0 []
  { s with
    ae := { s.ae with
            join, round := 7, roundTimer := .running 0
            silenceTimer := if join = .listening then .running 0 else .stopped }
    pp := { s.pp with windowOpen := false } }

/-- A frame as the AE queues it. -/
def queued (body : FrameBody) : QueuedFrame := newFrame body .ae

/-- The node with frames in its queue. -/
def withQueue (q : List QueuedFrame) (s : State) : State := { s with lc := { s.lc with queue := q } }

/-- The node with its first frame on the line since the moment 1000. -/
def sending (q : List QueuedFrame) (s : State) : State :=
  { s with lc := { s.lc with queue := q, onLine := some { round := 7, chars := [1, 2, 3] }, line := .busy 1000 1000 .begun } }

/-- The node with a command word held, its code and argument bytes. -/
def holding (code arg1 : Nat) (arg23 : Word16) (s : State) : State :=
  { s with pp := { s.pp with holding := some (byteOf code ++ byteOf arg1 ++ arg23) } }

/-- The characters of a frame of station 3 in round 7. -/
def heard (body : FrameBody) : List Byte := frameChars 3 7 body

/-- A record of the Override Stack. -/
def laid (kind : OverrideKind) (value : Word16) (void : Bool) : OverrideEntry :=
  { kind, value, captured := 0, round := 7, void, expiries := 0 }

/-! Worked values. -/

/-- The check value of the CRC of R100. -/
theorem test_crc_check_value : crc16 [0x31, 0x32, 0x33, 0x34, 0x35, 0x36, 0x37, 0x38, 0x39] = 0x29B1 := by
  decide +kernel

/-- The ranks of the access sequence of 02_the_allocation_link.md. -/
theorem test_ranks :
    [rankOf 5 4, rankOf 9 4, rankOf 11 4, rankOf 2 4, rankOf 9 5, rankOf 2 5, rankOf 10 9, rankOf 1 10, rankOf 1 15,
      rankOf 2 15, rankOf 2 1] = [0, 4, 6, 13, 3, 12, 0, 6, 1, 2, 0] := by decide

/-- The duties of the override sequence of 09_override_stack_and_valve_output.md. -/
theorem test_duties : dutyOfSetpoint 350 1000 = 358 ∧ dutyOfSetpoint 300 1000 = 306 := by decide

/-- The failing transmitter of 10_field_inputs_and_measurement.md. -/
theorem test_failing_transmitter :
    smoothedValue [2457, 2461, 650, 2470, 2466, 4090, 2459, 2463] 1000 = some 501 ∧
    smoothedValue [2461, 650, 2470, 2466, 4090, 2459, 2463, 300] 1000 = some 501 ∧
    smoothedValue [650, 2470, 2466, 4090, 2459, 2463, 300, 310] 1000 = none := by decide +kernel

/-! The three closes of 05_gas_allocation.md. -/

/-- A contract of the nine-unit plant. -/
def contract (claimant : Address) (requested granted : Nat) (draws : List Word16) (minMethane : Nat) : QueueEntry :=
  { claimant, requested, draws, minMethane, granted, shortfall := false, state := .full, joined := 400 }

/-- The plant before close 501, with producers of these figures and a holder of this volume and capacity. -/
def ninePlant (p1 p2 p3 : List Word16) (volume capacity : Word16) (queue : List QueueEntry) : Committed :=
  { plant
      [(1, live .producer p1), (2, live .producer p2), (3, live .producer p3),
        (4, live .store [volume, capacity, 30, 70, 90, 20, 400]), (6, live .consumer [0]), (7, live .consumer [0]),
        (8, live .consumer [0]), (12, live .flare [600, 0]), (13, live .flare [500, 0])] with
    queue, duty := some 12 }

/-- The queue of the sequence, station 8 at the requested tier and grant given. -/
def nineQueue (requested granted : Nat) : List QueueEntry :=
  [contract 6 3 3 [150, 250, 350] 55, contract 7 2 2 [200, 300] 52,
    contract 8 requested granted [120, 240, 360, 480] 58]

/-- What the tables of the sequence show of a close: grants, shortfalls, entry states, burns, flag, unburnt. -/
def shown (r : Allocated) : List (Nat × Bool × EntryState) × List Nat × Bool × Nat :=
  (r.state.queue.map fun q => (q.granted, q.shortfall, q.state), r.placed.map (·.2), r.state.flaring, r.state.unburnt)

theorem test_close_501 :
    let r := closeState (ninePlant [420, 62] [380, 60] [300, 57] 1440 2000 (nineQueue 3 3))
      [.claim 8 501 { tier := 4, minMethane := 58, draws := [120, 240, 360, 480] }]
    shown r = ([(3, false, .full), (2, false, .full), (4, false, .full)], [370, 0], true, 0) ∧
      (entryOf r.state.table 8).verdict = .granted ∧ (entryOf r.state.table 6).verdict = .none := by decide +kernel

theorem test_close_2650 :
    let r := closeState (ninePlant [260, 58] [220, 57] [160, 54] 560 2000 (nineQueue 4 4)) []
    shown r = ([(3, false, .full), (2, true, .full), (0, false, .suppressed)], [0, 0], false, 0) ∧
      (entryOf r.state.table 8).verdict = .suppressed ∧ (entryOf r.state.table 7).verdict = .none := by decide +kernel

theorem test_close_2651 :
    let before := (closeState (ninePlant [260, 58] [220, 57] [160, 54] 560 2000 (nineQueue 4 4)) []).state
    let c := { ninePlant [260, 61] [200, 59] [140, 57] 560 0 before.queue with flaring := false }
    let r := closeState c []
    shown r = ([(3, false, .full), (1, false, .partialGrant), (0, false, .waiting)], [50, 0], true, 0) ∧
      (entryOf r.state.table 7).verdict = .cut ∧ (entryOf r.state.table 8).verdict = .none := by decide +kernel

/-! The claim stage of round 730 of 04_claims_and_draw_contracts.md. -/

/-- The table of the sequence after the presence stage: station 9 LOST. -/
def table730 : List Entry :=
  (plant
    [(5, live .consumer [0]), (6, live .consumer [0]), (8, live .consumer [0]),
      (9, { live .consumer [0] with presence := .lost }), (12, live .flare [600, 0])]).table

theorem test_claim_stage_730 :
    let p := claimStage
      [.claim 6 730 { tier := 2, minMethane := 50, draws := [150, 260] },
        .claim 12 730 { tier := 1, minMethane := 0, draws := [100] }, .yield 5 1,
        .claim 6 730 { tier := 2, minMethane := 50, draws := [150, 260] }, .gap,
        .claim 9 730 { tier := 1, minMethane := 55, draws := [250] },
        .claim 8 730 { tier := 0, minMethane := 50, draws := [180, 300] }]
      table730
      [{ claimant := 5, requested := 3, draws := [200, 350, 500], minMethane := 52, granted := 3, shortfall := false,
         state := .full, joined := 702 },
        { claimant := 8, requested := 2, draws := [180, 300], minMethane := 50, granted := 1, shortfall := true,
          state := .partialGrant, joined := 715 },
        { claimant := 9, requested := 1, draws := [250], minMethane := 55, granted := 0, shortfall := false,
          state := .waiting, joined := 728 }]
    p.queue.map (fun q => (q.claimant, q.requested, q.granted, q.joined)) = [(5, 1, 1, 702), (6, 2, 0, 730)] ∧
      p.marked = bitWord 5 ||| bitWord 6 ∧
      [5, 6, 8, 9, 12].map (fun a => (entryOf p.table a).verdict) =
        [.none, .none, .none, .refusedNotLive, .refusedRole] := by decide +kernel

/-! The station of the example of 01_stations_and_the_shared_table.md. -/

/-- A STATUS of consumer 6 with its CH0 field. -/
def status6 (draw : Option Word16) : Record :=
  .status 6 { role := .consumer, digest := 0, governing := .base, flame := false, dutyAllowed := false,
              figures := [draw] }

/-- Presence, heard count, miss count, and the measured draw with its age of station 6 after rounds with these
journals. -/
def after6 (journals : List (List Record)) : Presence × Nat × Nat × Word16 × Nat :=
  let e := journals.foldl (fun e j => presenceEntry j 6 e) clearedEntry
  (e.presence, e.heard, e.miss, (entryFigure e 0).value, (entryFigure e 0).age)

theorem test_station_joins :
    after6 [[.announce 6 .consumer]] = (.joining, 0, 0, 0, 3) ∧
    after6 [[.announce 6 .consumer], [status6 (some 0)]] = (.joining, 1, 0, 0, 0) ∧
    after6 [[.announce 6 .consumer], [status6 (some 0)], [status6 (some 310)]] = (.live, 0, 0, 310, 0) := by
  decide +kernel

theorem test_station_falters :
    let j := [[.announce 6 .consumer], [status6 (some 0)], [status6 (some 310)], [status6 none], [.gap], [status6 none]]
    after6 (j.take 5) = (.live, 0, 1, 310, 2) ∧ after6 j = (.live, 0, 0, 0, 3) ∧
      after6 (j ++ [[], [], []]) = (.lost, 0, 3, 0, 3) ∧
      after6 (j ++ [[], [], [], [status6 (some 295)]]) = (.joining, 1, 0, 295, 0) := by decide +kernel

/-! The override sequence of 09_override_stack_and_valve_output.md, its withdrawals. -/

/-- Kinds and VOID marks from the top down. -/
def kinds (stack : List OverrideEntry) : List (OverrideKind × Bool) := stack.map fun e => (e.kind, e.void)

theorem test_override_void :
    let five := [laid .fixed 200 false, laid .plantTripIsolate 0 false, laid .esdIsolate 0 false, laid .hold 0 false,
      laid .limit 300 false]
    let step6 := withdrawn (fun e => decide (e.kind = .esdIsolate)) five
    let step7 := withdrawn (fun e => decide (e.kind = .plantTripIsolate)) step6
    kinds step6 = [(.fixed, false), (.plantTripIsolate, false), (.esdIsolate, true), (.hold, false), (.limit, false)] ∧
      isolatingPresent step6 = true ∧ isolatingPresent step7 = false ∧
      kinds (withdrawn (fun e => panelKind e.kind) step7) = [(.hold, false), (.limit, false)] := by decide

theorem test_override_room :
    let step7 := [laid .fixed 200 false, laid .plantTripIsolate 0 true, laid .esdIsolate 0 true, laid .hold 0 false,
      laid .limit 300 false]
    (makeRoom step7).map (fun p => (kinds p.1, p.2)) =
        some ([(.fixed, false), (.plantTripIsolate, true), (.hold, false), (.limit, false)], false) ∧
      (makeRoom [laid .limit 250 false, laid .isolate 0 false, laid .fixed 200 false, laid .hold 0 false,
        laid .limit 300 false]).map (fun p => (kinds p.1, p.2)) =
        some ([(.limit, false), (.isolate, false), (.fixed, false), (.hold, false)], true) := by decide

/-! The CANCEL race of 11_panel_port.md. -/

/-- The consumer of the sequence at the end of exchange 3: DEMAND 2 held, the EVENTS reply being shifted out. -/
def race : State :=
  let s := holding 0x08 0x02 0 (node .joined .consumer 5)
  { s with
    ae := { s.ae with committed := plant [(5, live .consumer [0])] }
    pp := { s.pp with
            image := (s.pp.image.set 7 900).set 8 950, reply := some (acceptedReply 0x05 0 0)
            exchange := .shifting 0 true } }

/-- What an outcome leaves at the port, and the pending demand. -/
def portAfter (o : Answer) : Option (Option Word32 × Option Word32 × Option Word32 × DemandStage) :=
  match o with
  | .next t => some (t.pp.holding, t.pp.reply, t.pp.outcome, t.ae.demand.stage)
  | .fault _ => none
  | .refused _ => none

theorem test_cancel_first :
    portAfter (exec (.exchangeEnd 32 0x11000000 false) race) =
      some (none, some (wordOf 0x20 0x01 0x08 0), none, .idle) := by decide +kernel

theorem test_handler_first :
    portAfter (exec (.exchangeEnd 32 0x11000000 true) race) =
      some (none, some (acceptedReply 0x08 0 0), some (wordOf 0x20 0x02 0x11 0), .queued) := by decide +kernel

/-- A CANCEL whose exchange ends with TOO-LATE pending is discarded; TOO-LATE moves into the buffer, DEMAND stays. -/
theorem test_cancel_while_pending :
    portAfter (exec (.exchangeEnd 32 0x11000000 false) { race with pp := { race.pp with outcome := some tooLateOutcome } }) =
      some (some 0x08020000, some tooLateOutcome, none, .idle) := by decide +kernel

/-- Where the exchange read no reply the handler comes first, whatever the operand says. -/
theorem test_cancel_unblocked :
    portAfter
        (exec (.exchangeEnd 32 0x11000000 false)
          { race with pp := { race.pp with reply := none, exchange := .shifting 0 false } }) =
      some (none, some (acceptedReply 0x08 0 0), some (wordOf 0x20 0x02 0x11 0), .queued) := by decide +kernel

/-! Witnesses of the hypotheses, statement by statement. -/

/-- The node with a journal of so many gaps. -/
def filled (n : Nat) (s : State) : State := { s with ae := { s.ae with journal := List.replicate n .gap } }

/-- A DIVERGED node with its cap held, and a command that waits. -/
def diverged : State :=
  let s := node .diverged .consumer 5
  { s with ae := { s.ae with cap := some 0 }, pending := [.valvePeriodStart] }

theorem test_hyp_StepKeepsLaws : lawful diverged ∧ ∃ t, step diverged = .next t := by
  refine ⟨⟨?_, ?_, ?_, ?_, ?_, ?_, fun _ => ⟨0, rfl, ?_⟩⟩, _, rfl⟩
  · unfold withinCapacity; decide +kernel
  · unfold stackLaw; decide +kernel
  · exact ⟨by decide, trivial⟩
  · unfold oneEach; decide +kernel
  · unfold roundLaw; decide +kernel
  · unfold timerLaw; decide +kernel
  · decide +kernel

theorem test_hyp_StepKeepsProfileLaw :
    profileLaw ((race.pp.image.set 13 0x0063).set 14 0x6400) ∧ profileLaw race.pp.image ∧
      ∃ t, step { race with pending := [.demand] } = .next t := by
  refine ⟨?_, ?_, _, rfl⟩
  · unfold profileLaw; decide +kernel
  · unfold profileLaw; decide +kernel

theorem test_hyp_FrameRoundTrip :
    sendable (.status { role := .producer, digest := 0, governing := .base, flame := false, dutyAllowed := false,
                        figures := [some 65535, some 255] }) ∧
      sendable .mark ∧ sendable (.claim { tier := 255, minMethane := 255, draws := [1] }) ∧
      sendable (.claim { tier := 0, minMethane := 0, draws := [1, 2, 3, 4, 5] }) ∧ sendable (.yield 255) ∧
      sendable (.duty .take) ∧ sendable (.announce .flare) ∧ sendable .trip ∧ sendable (.clear 15) ∧
      sendable (.ask 15 255) ∧ sendable (.blockHeader 15 15 .clear 255 0 0) ∧ sendable (.blockData 0 15 23 [0]) ∧
      sendable (.blockData 0 15 1 (List.replicate 22 0)) := by
  simp [sendable, slotWidths]

theorem test_hyp_SnapshotRecordsRoundTrip :
    entryInRange clearedEntry ∧ entryInRange { live .store [65535, 0, 255, 255, 255, 255, 0] with miss := 3, heard := 1 } ∧
      queueEntryInRange { contract 15 255 255 [1, 2, 3, 4, 5] 255 with shortfall := true } ∧
      (let c := { plant [(5, live .store [1, 2, 3, 4, 5, 6, 7])] with
                  queue := List.replicate 12 (contract 15 255 255 [1, 2, 3, 4, 5] 255), trips := 0xFFFF, duty := some 15 }
      c.table.length = 16 ∧ (∀ e ∈ c.table, entryInRange e) ∧ c.queue.length ≤ 12 ∧
        ∀ q ∈ c.queue, queueEntryInRange q) := by
  unfold entryInRange queueEntryInRange; decide +kernel

/-- The node with its line in a state. -/
def lined (line : LineState) (s : State) : State := { s with lc := { s.lc with line } }

/-- Station 5 with L = 15 starts at slot 8, or 16 slots later. -/
theorem test_hyp_FrameStartSendsHead :
    let s := withQueue [queued .mark] (node .joined .consumer 5)
    s.lc.onLine = none ∧ s.lc.queue = [queued .mark] ∧ s.lc.line = .quiet 0 none ∧
      admits s.ae.join s.lc.muted .mark = true ∧ 3 + (s.address - s.lc.lastSender - 1).val = 8 ∧
      s.now ≤ 0 + 250 * 8 ∧ 0 + 250 * (24 - 16) ≤ { s with now := 2000 }.now ∧ { s with now := 2000 }.now ≤ 0 + 250 * 24 ∧
      3 + (s.address - (some (4 : Address)).getD s.lc.lastSender - 1).val = 3 ∧
      (lined (.busy 7 9 .begun) s).lc.line = .busy 7 9 .begun := by decide +kernel

theorem test_frame_start :
    [(lined (.quiet 0 (some 4)) (withQueue [queued .mark] (node .joined .consumer 5)), 3),
      (lined (.quiet 0 none) (withQueue [queued .mark] (node .joined .consumer 5)), 8)].map
        (fun p => match exec (.frameStart p.2) p.1 with
          | .next t => (t.now, t.lc.line, t.lc.onLine.map (·.round))
          | .fault _ | .refused _ => (0, .quiet 0 none, none)) =
      [(750, .busy 750 750 .begun, some 8), (2000, .busy 2000 2000 .begun, some 8)] := by decide +kernel

/-- The node with its TTU in a phase. -/
def phased (phase : TransferPhase) (s : State) : State := { s with ttu := { s.ttu with phase } }

/-- The node with so many failed attempts. -/
def withAttempts (attempts : Nat) (s : State) : State := { s with ttu := { s.ttu with attempts } }

/-- The node with the records of its open journal. -/
def withJournal (journal : List Record) (s : State) : State := { s with ae := { s.ae with journal } }

/-- A frame with so many collisions. -/
def collidedFrame (n : Nat) (tracked : Bool) (body : FrameBody) : QueuedFrame :=
  { body, originator := .ttu, tracked, collisions := n }

theorem test_hyp_CollisionRule :
    let status : FrameBody := .status (node .joined .consumer 5).ownStatus
    let s := fun q => sending [q, queued status] (phased (.asked 3 1) (node .joined .consumer 5))
    (∀ q ∈ [collidedFrame 6 false .mark, collidedFrame 6 false status, collidedFrame 7 false .trip,
        collidedFrame 7 true (.ask 3 1), collidedFrame 7 true (.blockData 3 1 1 [0])],
      (s q).lc.onLine = some { round := 7, chars := [1, 2, 3] } ∧ (s q).lc.queue = [q, queued status] ∧
        (s q).ttu.attempts < 3 ∧ (s q).ttu.phase = .asked 3 1) ∧
      ofClass .status (collidedFrame 6 false .mark) = false ∧ ofClass .status (queued status) = true ∧
      (collidedFrame 7 false .trip).tracked = false ∧ isAsk (collidedFrame 7 true (.ask 3 1)).body = true ∧
      isBlock (collidedFrame 7 true (.blockData 3 1 1 [0])).body = true ∧ isBlock (queued status).body = false := by
  decide +kernel

theorem test_hyp_FullQueueDisplaces :
    let status : FrameBody := .status (node .joined .consumer 5).ownStatus
    let full := fun q => phased (.asked 3 1) (withQueue (List.replicate 7 (queued .trip) ++ [q]) (node .joined .consumer 5))
    (∀ q ∈ [queued .mark, queued status, queued .trip, queued (.announce .consumer), collidedFrame 0 true (.ask 3 1),
        collidedFrame 0 true (.blockData 3 1 1 [0])],
      8 ≤ (full q).lc.queue.length ∧ waitingFrames (full q).lc = List.replicate 7 (queued .trip) ++ q :: [] ∧
        (full q).ttu.phase = .asked 3 1 ∧
        ∀ x ∈ [queued .mark, queued status, queued .trip, queued (.yield 0)],
          admits (full q).ae.join (full q).lc.muted x.body = true) ∧
      ofClass .mark (queued .mark) = true ∧ ofClass .status (queued status) = true ∧
      ofClass .ordinary (queued (.yield 0)) = true ∧ ofClass .ordinary (queued .trip) = false ∧
      ofClass .ordinary (collidedFrame 0 true (.ask 3 1)) = true ∧
      isBlock (collidedFrame 0 true (.blockData 3 1 1 [0])).body = true ∧ isBlock (queued .trip).body = false := by
  decide +kernel

theorem test_hyp_OwnFrameSentAndEnds :
    (∀ p ∈ [(FrameBody.yield 1, Record.yield 5 1, 39, JoinState.joined), (.trip, .trip 5, 40, .diverged),
        (.announce .consumer, .announce 5 .consumer, 40, .listening)],
      let s := sending [queued p.1] (filled p.2.2.1 (node p.2.2.2 .consumer 5))
      s.ttu.attempts < 3 ∧ s.lc.onLine = some { round := 7, chars := [1, 2, 3] } ∧ s.lc.queue = [queued p.1] ∧
        s.lc.line = .busy 1000 1000 .begun ∧
        recordOf { sender := s.address, round := 7, body := (queued p.1).body } = some p.2.1 ∧ s.ae.join = p.2.2.2 ∧
        s.ae.round = 7 ∧ s.ae.journal.length = p.2.2.1) ∧
      let t := lined (.busy 1000 1000 (.sent (frameChars 5 7 .trip))) (node .joined .consumer 5)
      t.ttu.attempts < 3 ∧ t.lc.onLine = none ∧ ownPart t.lc.line = .sent (frameChars 5 7 .trip) ∧
        judgeFrame (frameChars 5 7 .trip) false = some { sender := 5, round := 7, body := .trip } := by decide +kernel

/-- The worked access sequence: a frame sent ends 0.32 ms after its last character, and L is then the own address. -/
theorem test_own_frame :
    let s := sending [queued .trip] (node .joined .consumer 5)
    let t := match exec .frameSent s with
      | .next t => t
      | .fault _ | .refused _ => s
    (t.lc.lastSender, t.now, t.ae.journal) = (15, 1480, [.trip 5]) ∧
      (match exec (.frameEnd [1, 2, 3] true) t with
        | .next u => (u.lc.lastSender, u.now, u.ae.journal)
        | .fault _ | .refused _ => (0, 0, [])) = (15, 1800, [.trip 5, .gap]) := by decide +kernel

theorem test_hyp_PeerFrameEnds :
    let f : GoodFrame := { sender := 3, round := 7, body := .trip }
    let offer : GoodFrame := { sender := 3, round := 7, body := .duty .offer }
    (∀ n ∈ [39, 40],
      peerFrameEnds (filled n (node .joined .consumer 5)) (heard .trip) false f ∧
        (filled n (node .joined .consumer 5)).ae.journal.length = n ∧
        (filled n (node .joined .consumer 5)).lc.onLine = none) ∧
      noClash (node .joined .consumer 5) 3 ∧ noClash (lined (.busy 0 9 .begun) (node .joined .consumer 5)) 5 ∧
      recordOf f = some (.trip 3) ∧ ¬ mayAnswer (node .joined .consumer 5) f ∧
      recordOf offer = some (.duty 3 .offer) ∧ ¬ mayAnswer (node .joined .consumer 5) offer ∧
      (node .joined .consumer 5).ttu.attempts < 3 ∧ judgeFrame [0] false = none ∧
      judgeFrame (heard .mark) true = none := by
  unfold peerFrameEnds noClash mayAnswer; decide +kernel

theorem test_hyp_AddressClashMutes :
    let s := node .joined .consumer 3
    peerFrameEnds s (heard .trip) false { sender := 3, round := 7, body := .trip } ∧ s.address = 3 ∧
      ownPart s.lc.line = .nothing ∧ s.ae.join ≠ .profile ∧ s.lc.muted = false ∧ stackLaw s.ovs.stack := by
  unfold peerFrameEnds stackLaw; decide +kernel

/-- A MARK of station 3 at its end. -/
theorem takesMark_peer (s : State) (round : Word16)
    (h : peerFrameEnds s (frameChars 3 round .mark) false { sender := 3, round, body := .mark }) (k : noClash s 3) :
    takesMark s (heardGood (frameEnded s (frameChars 3 round .mark).length) 3)
      (.frameEnd (frameChars 3 round .mark) false) round :=
  .inl ⟨_, _, _, rfl, h, k, rfl, rfl, rfl⟩

/-- The node with its own MARK of a round on the line, ahead of other frames. -/
def sendingMark (round : Word16) (rest : List QueuedFrame) (s : State) : State :=
  let s := sending (queued .mark :: rest) s
  { s with lc := { s.lc with onLine := some { round, chars := [1, 2, 3] } } }

/-- The node's own MARK as it counts as sent. -/
theorem takesMark_own (s : State) (round : Word16) (rest : List QueuedFrame) :
    takesMark (sendingMark round rest s)
      (ownFrameOff (sendingMark round rest s) { round, chars := [1, 2, 3] } rest 1000) .frameSent round :=
  .inr ⟨_, _, _, _, rfl, ⟨rfl, rfl, _, _, rfl⟩, rfl, rfl, rfl⟩

/-- The node with its round number. -/
def inRound (round : Word16) (s : State) : State := { s with ae := { s.ae with round } }

theorem test_hyp_MarkWithoutClose :
    (∀ p ∈ [(JoinState.profile, (7 : Word16)), (.muted, 7), (.listening, 0), (.joined, 7)],
      peerFrameEnds (inRound p.2 (node p.1 .store 5)) (heard .mark) false { sender := 3, round := 7, body := .mark } ∧
        noClash (inRound p.2 (node p.1 .store 5)) 3 ∧ (inRound p.2 (node p.1 .store 5)).ae.join = p.1 ∧
        (inRound p.2 (node p.1 .store 5)).ae.round = p.2 ∧ (inRound p.2 (node p.1 .store 5)).ttu.attempts < 3) ∧
      peerFrameEnds (node .joined .store 5) (frameChars 3 0 .mark) false { sender := 3, round := 0, body := .mark } := by
  unfold peerFrameEnds noClash; decide +kernel

/-- The node with its pending demand at a stage. -/
def demanding (stage : DemandStage) (s : State) : State :=
  { s with ae := { s.ae with demand := { stage, outcome := .verdict .none } } }

theorem test_hyp_MarkClosesRound :
    (∀ p ∈ [(JoinState.joined, (8 : Word16)), (.diverged, 6)],
      ∃ h i, closesRound (withAttempts 2 (phased (.asked 3 3) (node p.1 .flare 5))) h i p.2) ∧
      (∃ h, closesRound (sendingMark 8 [] (node .joined .flare 5)) h .frameSent 8) ∧
      (let s := withJournal [status6 none] (node .joined .flare 5)
      joinAfterTally s.address .diverged (tallyOf s.address s.ae.digest s.ae.journal) = .joined) ∧
      (let s := withJournal [status6 none] { diverged with address := 5 }
      joinAfterTally s.address .diverged (tallyOf s.address 0x1234 s.ae.journal) = .diverged ∧
        (tallyOf s.address 0x1234 s.ae.journal).differing ≠ []) ∧
      8 ≤ ((List.replicate 8 (queued (.yield 1))).filter fun q => decide (q.body ≠ .mark)).length ∧
      ∀ stage ∈ [DemandStage.idle, .queued, .taken],
        ∃ h, closesRound (sendingMark 8 [] (demanding stage (node .joined .consumer 5))) h .frameSent 8 := by
  refine ⟨?_, ⟨_, takesMark_own _ _ _, Or.inl rfl, by decide, by decide, by decide, by decide⟩, by decide +kernel,
    by decide +kernel, by decide, fun stage _ =>
      ⟨_, takesMark_own _ _ _, Or.inl rfl, show (7 : Word16) ≠ 0 by decide, by decide, show (8 : Word16) ≠ 7 by decide,
        show 0 < 3 by decide⟩⟩
  intro p hp
  refine ⟨_, _, takesMark_peer _ _ ?_ ?_, ?_⟩ <;> revert p <;>
    (first | unfold peerFrameEnds | unfold noClash | skip) <;> decide +kernel

theorem test_hyp_CloseOffersFrames :
    ∀ p ∈ [(TransferPhase.idle, 2), (.asked 3 3, 2), (.serving 3 1 7 0 12 3, 0)],
      let s := withQueue [queued .trip, queued .mark, queued .trip, queued .trip]
        (withAttempts p.2 (phased p.1
          { (node .joined .flare 5) with ae := { (node .joined .flare 5).ae with hold := [.trip] } }))
      (∃ h, closesRound s h (.frameEnd (frameChars 3 8 .mark) false) 8 ∧
        h.lc.queue.length + s.ae.hold.length + 3 ≤ 8) ∧ s.lc.muted = false := by
  intro p hp
  refine ⟨⟨_, ⟨takesMark_peer _ _ ?_ ?_, ?_⟩, ?_⟩, rfl⟩ <;> revert p <;>
    (first | unfold peerFrameEnds | unfold noClash | skip) <;> decide +kernel

/-- A LISTENING node with two failed attempts, so many frames in its queue, the announce mark and journal given. -/
def listener (phase : TransferPhase) (n : Nat) (announced : Bool) (journal : List Record) : State :=
  let s := withQueue (List.replicate n (queued (.announce .store))) (withAttempts 2 (phased phase (node .listening .store 5)))
  { s with ae := { s.ae with announced, journal } }

theorem test_hyp_WitnessedClose :
    (∀ phase ∈ [TransferPhase.idle, .asked 3 3], ∀ n ∈ [6, 7, 8], ∀ announced ∈ [false, true],
      ∀ journal ∈ [[], [Record.gap, status6 none]],
      let s := listener phase n announced journal
      (∃ h i, takesMark s h i 8 ∧ h.lc.queue.length = n) ∧
        s.lc.muted = false ∧ s.ae.join = .listening ∧ s.ae.round = 7 ∧ s.ttu.attempts = 2 ∧
        s.ae.announced = announced) ∧
      status6 none ∈ [Record.gap, status6 none] ∧
      (noticed (listener (.asked 3 3) 6 true [])).ttu.attempts = 3 ∧
      (noticed (listener .idle 7 true [])).ttu.attempts < 3 := by
  refine ⟨?_, by decide +kernel, by decide +kernel, by decide +kernel⟩
  intro phase hp n hn announced ha journal hj
  refine ⟨⟨_, _, takesMark_peer _ _ ?_ ?_, ?_⟩, ?_⟩
  · exact ⟨rfl, nofun, by decide +kernel⟩
  · exact Or.inl (show (3 : Address) ≠ 5 by decide)
  · exact List.length_replicate
  · exact ⟨rfl, rfl, rfl, rfl, rfl⟩

/-- Consumer 6 in the table with a presence, a heard count and a miss count. -/
def six (presence : Presence) (heard miss : Nat) : Committed :=
  plant [(6, { live .consumer [310] with presence, heard, miss })]

theorem test_hyp_PresenceTable :
    (∀ p ∈ [(Presence.joining, 0, 0), (.joining, 1, 0), (.live, 0, 1), (.live, 0, 2), (.lost, 0, 3)],
      openedEntry (six p.1 p.2.1 p.2.2) [] 6 = { live .consumer [310] with presence := p.1, heard := p.2.1, miss := p.2.2 } ∧
        heardIn [status6 none] 6 (openedEntry (six p.1 p.2.1 p.2.2) [status6 none] 6) ∧
        ¬ heardIn [] 6 (openedEntry (six p.1 p.2.1 p.2.2) [] 6)) ∧
      (openedEntry clearedState [] 6).presence = .absent ∧
      heardIn [status6 none] 6 (openedEntry clearedState [status6 none] 6) ∧
      ¬ heardIn [] 6 (openedEntry clearedState [] 6) := by
  unfold heardIn; decide +kernel

theorem test_hyp_FiguresAge :
    let c := six .live 0 0
    let j := [status6 none, .announce 6 .flare, status6 (some 9)]
    (openedEntry c j 6).role = some .flare ∧ statusesOf (afterAnnounce j) 6 = statusesOf [status6 (some 9)] 6 ∧
      (∀ r ∈ [Role.producer, .store, .consumer, .flare], Record.announce 6 r ∉ [status6 (some 9)]) ∧
      (openedEntry c [] 6).presence = .live ∧ (openedEntry c [] 6).role = some .consumer ∧
      (openedEntry c [] 6).figures.length = 8 ∧ (openedEntry c [] 7).presence = .absent ∧
      statusesOf (afterAnnounce []) 6 = [] ∧
      (statusesOf (afterAnnounce [status6 (some 9), status6 none]) 6).map (fun b => (b.role, b.figures.getD 0 none)) =
        [(.consumer, some 9), (.consumer, none)] := by decide +kernel

theorem test_hyp_ClaimWithoutEntry :
    let twelve := (List.range 12).map fun n => contract (if n < 6 then Fin.ofNat 16 n else Fin.ofNat 16 (n + 1)) 1 0 [5] 0
    ∀ queue ∈ [[], twelve], ∀ q ∈ queue, q.claimant ≠ (6 : Address) := by decide +kernel

theorem test_hyp_ContractsOfLiveConsumers :
    let c := { clearedState with queue := (List.range 12).map fun n => contract (Fin.ofNat 16 n) 1 0 [5] 0 }
    c.queue.length ≤ 12 ∧ (c.queue.map (·.claimant)).Nodup := by decide +kernel

theorem test_hyp_ClaimOfHolder :
    let queue := [contract 6 3 3 [150, 250, 350] 55, contract 7 2 2 [200, 300] 52, contract 8 4 4 [120, 240, 360, 480] 58]
    queue = [contract 6 3 3 [150, 250, 350] 55] ++
        contract 7 2 2 [200, 300] 52 :: [contract 8 4 4 [120, 240, 360, 480] 58] ∧
      (∀ x ∈ [contract 6 3 3 [150, 250, 350] 55] ++ [contract 8 4 4 [120, 240, 360, 480] 58], x.claimant ≠ (7 : Address)) ∧
      contractFits { tier := 1, minMethane := 100, draws := [4095] } ∧
      ¬ contractFits { tier := 1, minMethane := 101, draws := [4095] } ∧
      (∀ q ∈ queue, q.claimant ≠ (9 : Address)) ∧ (∀ b round body, Record.gap ≠ .claim b round body) ∧
      ∀ b tier, Record.gap ≠ .yield b tier := by
  refine ⟨rfl, by decide, ?_, ?_, by decide, by simp, by simp⟩ <;> simp [contractFits]

theorem test_hyp_GrantsWithinRequests :
    grantLaw (nineQueue 4 4) ∧ ((nineQueue 4 4).map (·.claimant)).Nodup := by unfold grantLaw; decide +kernel

/-- The holder at fill 30, its low band, and at 31. -/
theorem test_hyp_AvailableGas :
    let gas := fun volume => availableGas (ninePlant [500, 60] [0, 0] [0, 0] volume 2000 []).table
    storesCounted clearedState.table = [] ∧ production clearedState.table = 0 ∧
      plantMethane (ninePlant [500, 60] [300, 50] [0, 0] 0 0 []).table = 56 ∧
      holderFill (ninePlant [500, 60] [0, 0] [0, 0] 600 2000 []).table = 30 ∧ gas 600 = 500 ∧
      holderFill (ninePlant [500, 60] [0, 0] [0, 0] 620 2000 []).table = 31 ∧ gas 620 = 520 := by
  decide +kernel

theorem test_hyp_GrantRule :
    (54 < (contract 6 3 3 [150, 250, 350] 55).minMethane) ∧ (contract 6 3 3 [150, 250, 350] 55).minMethane ≤ 55 ∧
      (closeState clearedState [.gap]).state.trips = 0 := by
  decide +kernel

/-- Frames whose CRC, kind and fields are right, and the same with a framing error, a wrong CRC, a wrong length and a
field out of range. -/
theorem test_judgeFrame :
    let good := frameChars 3 7 (.duty .take)
    let text := fun (payload : List Byte) => [0x53, 0, 7, byteOf payload.length] ++ payload
    judgeFrame good false = some { sender := 3, round := 7, body := .duty .take } ∧
      (judgeFrame (frameChars 3 7 (.status (node .joined .store 5).ownStatus)) false).isSome = true ∧
      judgeFrame good true = none ∧ judgeFrame (good.dropLast ++ [0]) false = none ∧
      judgeFrame (good ++ [0]) false = none ∧
      judgeFrame (text [4] ++ bytesOfWord (crc16 (text [4]))) false = none := by decide +kernel

theorem test_hyp_TripCloseSuppresses : (closeState clearedState [.trip 4]).state.trips ≠ 0 := by decide +kernel

theorem test_hyp_TripSetRecords :
    tripStage [.trip 4, .announce 4 .store, .clear 6 5] clearedState.table (bitWord 4 ||| bitWord 5) = 0 ∧
      tripStage [.announce 4 .store, .trip 4] clearedState.table 0 = bitWord 4 ∧
      recordSender (.trip 4) = some 4 ∧ Record.announce 4 .store ∈ [Record.announce 4 .store] ∧
      recordSender .gap = none := by decide +kernel

/-- Flares 12 and 13, the first at a burn capacity, the second a candidate. -/
def flares (capacity : Word16) (presence : Presence) : List Entry :=
  (plant [(12, { live .flare [capacity, 0] with presence }), (13, live .flare [500, 0])]).table

theorem test_hyp_LeadDutySteps :
    (entryOf (flares 600 .lost) 12).presence ≠ .live ∧ (entryOf (flares 600 .live) 12).presence = .live ∧
      burnCapacity (entryOf (flares 0 .live) 12) = 0 ∧ burnCapacity (entryOf (flares 1 .live) 12) ≠ 0 ∧
      candidate (entryOf (flares 0 .live) 13) = true ∧
      transferDuty (flares 0 .live) (flares 0 .live) { duty := some 12, offer := true } = { duty := some 13, offer := false } ∧
      fillDuty (flares 600 .lost) { duty := none, offer := false } = { duty := some 13, offer := false } ∧
      offerWalk (flares 600 .live) { duty := some 12, offer := false } [.duty 12 .offer, .duty 13 .take, .duty 13 .offer] =
        { duty := some 13, offer := false } := by decide +kernel

theorem test_hyp_FlaringFlag :
    let after := fun volume capacity =>
      (closeState (ninePlant [420, 62] [380, 60] [300, 57] volume capacity []) []).state
    (closeState clearedState [.trip 4]).state.trips ≠ 0 ∧
      (∀ p ∈ [((1400 : Word16), 70), (1399, 69), (1300, 65), (1299, 64)],
        (after p.1 2000).trips = 0 ∧ storesCounted (after p.1 2000).table = [4] ∧
          holderFill (after p.1 2000).table = p.2 ∧ tableFigure (after p.1 2000).table 4 3 = 70) ∧
      (after 0 0).trips = 0 ∧ storesCounted (after 0 0).table = [] := by decide +kernel

theorem test_hyp_SameJournalSameState :
    let s := sendingMark 8 [] (node .joined .flare 5)
    let t := phased (.serving 4 1 7 0 12 3) (node .diverged .store 9)
    (∃ hs, closesRound s hs .frameSent 8) ∧
      (∃ ht, closesRound t ht (.frameEnd (frameChars 3 8 .mark) false) 8) ∧ noThirdFailure s ∧ noThirdFailure t ∧
      s.ae.committed = t.ae.committed ∧ s.ae.journal = t.ae.journal := by
  refine ⟨⟨_, takesMark_own _ _ _, Or.inl rfl, by decide, by decide, by decide, by decide⟩,
    ⟨_, takesMark_peer _ _ ?_ ?_, ?_⟩, ?_, ?_, rfl, rfl⟩ <;>
    (first | unfold peerFrameEnds | unfold noClash | unfold noThirdFailure | skip) <;> decide +kernel

theorem test_hyp_ServerChoice :
    lastDigests (fun _ => true) [] = [] ∧ lastDigests (fun _ => true) [status6 none] ≠ [] := by decide +kernel

/-- Flare 5, eligible, with another flare holding the duty. -/
def flareNode : State :=
  let s := filled 39 (node .joined .flare 5)
  { s with
    ae := { s.ae with committed := { plant [(3, live .flare [600, 0]), (5, live .flare [500, 0])] with duty := some 3 } }
    pp := { s.pp with image := s.pp.image.set 0 4 } }

theorem test_hyp_OfferAnswered :
    let f : GoodFrame := { sender := 3, round := 7, body := .duty .offer }
    let full := withQueue (List.replicate 8 (queued (.yield 0))) flareNode
    (peerFrameEnds flareNode (heard (.duty .offer)) false f ∧ mayAnswer flareNode f ∧ flareNode.ttu.attempts < 3 ∧
        flareNode.ae.round ≠ 0 ∧ flareNode.ae.journal.length < 40 ∧ flareNode.lc.muted = false ∧
        flareNode.lc.queue.length < 8) ∧
      (peerFrameEnds full (heard (.duty .offer)) false f ∧ mayAnswer full f ∧ full.lc.queue.length = 8) ∧
      mayAnswer (inRound 0 flareNode) f ∧ mayAnswer (filled 40 flareNode) f ∧
      mayAnswer { flareNode with lc := { flareNode.lc with muted := true } } f := by
  refine ⟨?_, ?_, ?_, ?_, ?_⟩ <;> unfold mayAnswer <;> try unfold peerFrameEnds
  all_goals decide +kernel

theorem test_hyp_AskAnswered :
    (∀ s ∈ [withQueue (List.replicate 7 (queued (.yield 1))) (node .joined .store 5),
        withQueue (List.replicate 8 (queued (.yield 1))) (phased (.serving 4 1 7 0 12 3) (node .joined .store 5)),
        withQueue (collidedFrame 0 true (.blockData 3 1 3 [0]) :: List.replicate 7 (queued (.yield 1)))
          (phased (.serving 3 1 7 0 12 3) (node .joined .store 5)),
        phased (.asked 4 1) (node .joined .store 5), node .diverged .store 5],
      peerFrameEnds s (heard (.ask 5 1)) false { sender := 3, round := 7, body := .ask 5 1 } ∧
        peerFrameEnds s (heard (.ask 6 1)) false { sender := 3, round := 7, body := .ask 6 1 } ∧ s.address = 5 ∧
        s.ttu.attempts < 3 ∧ s.lc.muted = false) ∧
      (∀ j ∈ [JoinState.profile, .listening, .muted],
        peerFrameEnds (node j .store 5) (heard (.ask 5 1)) false { sender := 3, round := 7, body := .ask 5 1 }) ∧
      (node .joined .store 5).ttu.phase = .idle := by
  unfold peerFrameEnds; decide +kernel

theorem test_hyp_TransferFramesSent :
    let q : QueuedFrame := { queued (.blockData 3 1 4 [0]) with tracked := true }
    let ask : QueuedFrame := { queued (.ask 3 1) with tracked := true }
    let asked := phased (.asked 3 1) (sending [ask] (node .listening .store 5))
    (∀ k ∈ [11, 12],
      let s := phased (.serving 3 1 7 0 12 k) (sending (q :: List.replicate 7 (queued (.yield 1))) (node .joined .store 5))
      s.lc.onLine = some { round := 7, chars := [1, 2, 3] } ∧ s.lc.line = .busy 1000 1000 .begun ∧ q.tracked = true ∧
        isBlock q.body = true ∧ s.ae.join = .joined ∧ s.lc.muted = false ∧ s.ttu.attempts < 3 ∧
        s.lc.queue.tail.length < 8 ∧ ∀ x ∈ s.lc.queue.tail, x.tracked = true → isBlock x.body = false) ∧
      (∀ b ∈ [FrameBody.ask 3 1, .blockHeader 3 1 .busy 0 7 0, .blockData 3 1 4 [0]],
        let s := sending [queued b] (node .joined .store 5)
        s.lc.onLine = some { round := 7, chars := [1, 2, 3] } ∧ s.lc.queue = [queued b] ∧
          s.lc.line = .busy 1000 1000 .begun ∧ (queued b).tracked = false ∧ isServing s.ttu.phase = false) ∧
      asked.lc.onLine = some { round := 7, chars := [1, 2, 3] } ∧ asked.lc.queue = [ask] ∧ ask.tracked = true ∧
      asked.lc.line = .busy 1000 1000 .begun ∧ (3 : Address) ≠ asked.address ∧ asked.ttu.phase = .asked 3 1 ∧
      asked.ttu.attempts < 3 := by decide +kernel

theorem test_hyp_BlocksTaken :
    let s := node .diverged .store 5
    (∀ count ∈ [12, 23],
      peerFrameEnds (phased (.asked 3 2) s) (heard (.blockHeader 5 2 .clear count 7 0)) false
        { sender := 3, round := 7, body := .blockHeader 5 2 .clear count s.ae.round 0 }) ∧
      peerFrameEnds (phased (.loading 3 2 7 0 12 11) s) (heard (.blockData 5 2 11 (List.replicate 22 1))) false
        { sender := 3, round := 7, body := .blockData 5 2 11 (List.replicate 22 1) } ∧
      noClash s 3 ∧ s.ttu.attempts < 3 ∧
      (∀ b ∈ [FrameBody.blockData 6 2 1 [1], .blockData 5 3 1 [1], .blockHeader 5 3 .clear 12 7 0],
        peerFrameEnds (phased (.asked 3 2) s) (heard b) false { sender := 3, round := 7, body := b }) ∧
      (5 : Address) = s.address ∧ 3 ≠ 2 % 16 := by
  unfold peerFrameEnds noClash; decide +kernel

/-- The body of the cleared state. -/
def emptyBody : List Byte := snapshotBody clearedState

theorem test_emptyBody : emptyBody.length = 262 ∧ (byteAt emptyBody 261).toNat = 0 := by decide +kernel

theorem test_hyp_LastBlockLoads :
    let last := emptyBody.drop 242
    let f : GoodFrame := { sender := 3, round := 7, body := .blockData 5 2 12 last }
    let s := phased (.loading 3 2 7 (crc16 emptyBody) 12 12) (node .listening .store 5)
    let t := { s with ttu := { s.ttu with buffer := emptyBody.take 242 } }
    (1 ≤ last.length ∧ last.length ≤ 22 ∧ t.ttu.buffer ++ last = emptyBody) ∧
      t.ttu.phase = .loading 3 2 7 (crc16 emptyBody) 12 12 ∧ t.lc.onLine = none ∧ ownPart t.lc.line = .nothing ∧
      (3 : Address) ≠ t.address ∧ judgeFrame (heard f.body) false = some f ∧ t.lc.muted = false ∧
      t.lc.queue.length < 8 ∧
      ∃ x ∈ (withQueue (List.replicate 7 (queued .trip) ++ [queued (.status t.ownStatus)]) t).lc.queue,
        ofClass .status x = true := by
  refine ⟨?_, rfl, rfl, rfl, by decide, ?_⟩ <;> decide +kernel

/-- The node with both TTU timers running and so many failed attempts. -/
def failing (attempts : Nat) : State :=
  let s := phased (.asked 3 1) (node .listening .store 5)
  { s with ttu := { s.ttu with attempts, answerTimer := .running 0, stallTimer := .running 0 } }

theorem test_hyp_AttemptFails :
    let asked := phased (.asked 3 2) (node .diverged .store 5)
    let last := phased (.loading 3 2 7 0 12 12) (node .diverged .store 5)
    (failing 1).ttu.attempts < 3 ∧
      failsAttempt (failing 1) { (failing 1) with now := 100000 } .answerTimerExpiry ∧
      failsAttempt (failing 1) { (failing 1) with now := 60000 } .stallTimerExpiry ∧
      (∃ u, failsAttempt asked u (.frameEnd (heard (.blockHeader 5 2 .busy 12 7 0)) false)) ∧
      (∃ u, failsAttempt last u (.frameEnd (heard (.blockData 5 2 12 [0])) false)) ∧
      failsAttempt (sending [collidedFrame 7 true (.ask 3 2)] asked)
        (discarded (lineStopped (sending [collidedFrame 7 true (.ask 3 2)] asked) [])) .collision := by
  refine ⟨by decide, .inl ⟨0, rfl, rfl, rfl⟩, .inr (.inl ⟨0, rfl, rfl, rfl⟩),
    ⟨_, .inr (.inr (.inl ⟨_, _, { sender := 3, round := 7, body := .blockHeader 5 2 .busy 12 7 0 }, rfl,
      ⟨rfl, nofun, by decide +kernel⟩, Or.inl (by decide), ?_, rfl⟩))⟩,
    ⟨_, .inr (.inr (.inl ⟨_, _, { sender := 3, round := 7, body := .blockData 5 2 12 [0] }, rfl,
      ⟨rfl, nofun, by decide +kernel⟩, Or.inl (by decide), ?_, rfl⟩))⟩,
    .inr (.inr (.inr ⟨_, _, [], 3, 2, rfl, rfl, rfl, rfl, rfl, rfl, rfl, rfl⟩))⟩
  · exact .inl ⟨2, rfl, .inl ⟨.busy, 12, 7, 0, rfl, by decide⟩⟩
  · exact .inr ⟨2, 7, 0, 12, 12, rfl, .inr ⟨12, [0], rfl, by decide +kernel⟩⟩

theorem test_hyp_failingBlock :
    let s := node .diverged .store 5
    let heardAs := fun (body : FrameBody) => ({ sender := 3, round := 7, body } : GoodFrame)
    (∀ b ∈ [FrameBody.blockHeader 5 2 .clear 12 6 0, .blockHeader 5 2 .clear 11 7 0, .blockHeader 5 2 .clear 24 7 0,
        .blockData 5 2 1 [0]], failingBlock (phased (.asked 3 2) s) (heardAs b)) ∧
      ∀ b ∈ [FrameBody.blockHeader 5 2 .clear 12 7 0, .blockData 5 2 12 [0], .blockData 5 2 11 [0]],
        failingBlock (phased (.loading 3 2 7 0 12 11) s) (heardAs b) := by
  refine ⟨?_, ?_⟩ <;> simp only [List.forall_mem_cons, List.not_mem_nil, false_implies, implies_true, and_true]
  · exact ⟨.inl ⟨2, rfl, .inl ⟨_, _, _, _, rfl, by decide⟩⟩, .inl ⟨2, rfl, .inl ⟨_, _, _, _, rfl, by decide⟩⟩,
      .inl ⟨2, rfl, .inl ⟨_, _, _, _, rfl, by decide⟩⟩, .inl ⟨2, rfl, .inr ⟨_, _, rfl⟩⟩⟩
  · exact ⟨.inr ⟨2, 7, 0, 12, 11, rfl, .inl ⟨_, _, _, _, rfl⟩⟩,
      .inr ⟨2, 7, 0, 12, 11, rfl, .inr ⟨12, [0], rfl, by decide +kernel⟩⟩,
      .inr ⟨2, 7, 0, 12, 11, rfl, .inr ⟨11, [0], rfl, by decide +kernel⟩⟩⟩

theorem test_hyp_ThirdFailureRejoins :
    failsAttempt (failing 2) { (failing 2) with now := 100000 } .answerTimerExpiry ∧
      failsAttempt (failing 2) { (failing 2) with now := 60000 } .stallTimerExpiry ∧
      (failing 2).ttu.attempts = 2 ∧ stackLaw (failing 2).ovs.stack :=
  ⟨.inl ⟨0, rfl, rfl, rfl⟩, .inr (.inl ⟨0, rfl, rfl, rfl⟩), rfl, by unfold stackLaw; decide +kernel⟩

theorem test_hyp_RoundTimerExpires :
    let s := fun n => withQueue (List.replicate n (queued .trip)) (node .joined .store 5)
    (∀ j ∈ [JoinState.listening, .muted, .joined, .diverged],
      (node j .store 5).ae.roundTimer = .running 0 ∧ (node j .store 5).ttu.attempts < 3) ∧
      roomToSend (s 7) ∧ (∀ q ∈ (s 7).lc.queue, q.body ≠ .mark) ∧ (∀ q ∈ (s 8).lc.queue, q.body ≠ .mark) ∧
      8 ≤ (s 8).lc.queue.length ∧ (∀ q ∈ waitingFrames (s 8).lc, ofClass .ordinary q = false) ∧
      (∃ q ∈ (sending [queued .mark] (node .joined .store 5)).lc.queue, q.body = .mark) ∧
      (node .joined .store 5).lc.muted = false := by
  unfold roomToSend; decide +kernel

theorem test_hyp_SilenceTimerFounds :
    let s := withQueue [queued (.ask 3 1), queued (.announce .store), queued (.ask 3 2), queued (.ask 3 3),
      queued (.ask 3 4)] (node .listening .store 5)
    s.ae.silenceTimer = .running 0 ∧ s.ae.join = .listening ∧ s.lc.muted = false ∧
      (∀ q ∈ s.lc.queue, listeningFrame q.body = true) ∧ s.lc.queue.length + 3 = 8 := by decide +kernel

/-- A node whose profile window is open, with so many words written. -/
def loading (n : Nat) : State :=
  let s := State.atReset 5 .consumer { esd := false, trip := false, permit := false, aux := false } .none 0 []
  { s with pp := { s.pp with written := List.replicate n true ++ List.replicate (20 - n) false } }

/-- The word that `holding` holds. -/
def word (code arg1 : Nat) (arg23 : Word16) : Word32 := byteOf code ++ byteOf arg1 ++ arg23

theorem test_hyp_ProfileWindowCloses :
    (loading 0).ae.join = .profile ∧ (loading 0).pp.windowOpen = true ∧
      Held (holding 0x10 0 0 (loading 0)) (word 0x10 0 0) ∧ commandCode (word 0x10 0 0) = 0x10 ∧
      Held (holding 0x10 0 0 (node .joined .store 5)) (word 0x10 0 0) ∧ (node .joined .store 5).ae.join ≠ .profile := by
  unfold Held; decide +kernel

theorem test_hyp_ProfileWordStored :
    (∀ a ∈ [19, 20], Held (holding 0x0F a 0 (loading 19)) (word 0x0F a 0) ∧ commandCode (word 0x0F a 0) = 0x0F ∧
      argument1 (word 0x0F a 0) = a) ∧
      ¬ ((node .joined .store 5).ae.join = .profile ∧ (node .joined .store 5).pp.windowOpen = true) ∧
      (loading 19).ae.join = .profile ∧ (loading 19).pp.windowOpen = true ∧
      wordFits (loading 19).pp.image 19 1023 ∧ ¬ wordFits (loading 19).pp.image 19 1024 ∧
      wordFits (loading 19).pp.image 18 5 ∧ ¬ wordFits (loading 19).pp.image 20 0 ∧
      (∀ b ∈ (loading 19).pp.written.set 19 true, b = true) ∧
      (∃ b ∈ (loading 18).pp.written.set 18 true, b = false) := by
  refine ⟨by unfold Held; decide +kernel, by decide +kernel, by decide +kernel, by decide +kernel,
    by simp [wordFits], by simp [wordFits], by simp [wordFits], by simp [wordFits], by decide +kernel,
    by decide +kernel⟩

/-- The node with IN3 at a pin level and a counted level. -/
def auxAt (pin reference : Bool) (s : State) : State :=
  { s with eiu := { s.eiu with aux := { pin, reference, latch := true, lost := 15 }, wait := .running 0 } }

theorem test_hyp_InputEdges :
    (auxAt true false (node .joined .flare 5)).eiu.aux.pin = true ∧
      (auxAt true false (node .joined .flare 5)).eiu.aux.reference = false ∧
      (auxAt true true (node .joined .flare 5)).eiu.aux.reference = true ∧
      (auxAt true true (node .joined .flare 5)).role = .flare ∧
      (auxAt false true (node .joined .store 5)).eiu.aux.pin ≠ true ∧ (auxAt false true (node .joined .store 5)).role ≠ .flare := by
  decide +kernel

/-- The node with input latches set. -/
def latched (esd trip permit aux : Bool) (s : State) : State :=
  { s with
    eiu := { s.eiu with
             esd := { s.eiu.esd with latch := esd }, trip := { s.eiu.trip with latch := trip }
             permit := { s.eiu.permit with latch := permit }, aux := { s.eiu.aux with latch := aux } } }

theorem test_hyp_EsdEventTaken :
    let full := fun body => latched true true true true (withQueue (List.replicate 8 (queued body)) (node .joined .store 5))
    let room := latched true false false false (withQueue (List.replicate 7 (queued .trip)) (node .diverged .store 5))
    (full .trip).eiu.esd.latch = true ∧ room.eiu.esd.latch = true ∧ (full .trip).ttu.attempts < 3 ∧ roomToSend room ∧
      (full .trip).ae.join = .joined ∧ (full .trip).lc.muted = false ∧ (full .trip).lc.queue.length = 8 ∧
      (∀ q ∈ waitingFrames (full .trip).lc, ofClass .ordinary q = false) ∧
      (∃ q ∈ waitingFrames (full (.yield 0)).lc, ofClass .ordinary q = true) ∧
      (latched true false false false (loading 0)).eiu.esd.latch = true := by
  unfold roomToSend; decide +kernel

theorem test_hyp_TripEventTaken :
    (∀ r ∈ [Role.store, .consumer],
      let s := fun n => latched false true true true (withQueue (List.replicate n (queued .trip)) (node .joined r 5))
      (s 7).eiu.trip.latch = true ∧ (s 7).eiu.esd.latch = false ∧ (s 7).role = r ∧ roomToSend (s 7) ∧
        (s 8).lc.muted = false ∧ 8 ≤ (s 8).lc.queue.length) ∧
      ∀ j ∈ [JoinState.profile, .listening, .muted],
        (latched false true true true (node j .consumer 5)).eiu.trip.latch = true ∧
          (latched false true true true (node j .consumer 5)).ae.join = j := by
  unfold roomToSend; decide +kernel

/-- A node with a PERMIT latched, its AUTO-RESUME flag, and its trip-outstanding mark. -/
def permitted (join : JoinState) (resume outstanding : Bool) : State :=
  let s := latched false false true true (node join .consumer 5)
  { s with
    eiu := { s.eiu with tripOutstanding := outstanding }
    pp := { s.pp with image := s.pp.image.set 0 (if resume then 2 else 0) } }

theorem test_hyp_PermitEventTaken :
    let full := fun (n : Nat) (body : FrameBody) => withQueue (List.replicate n (queued body)) (permitted .joined true true)
    (∀ p ∈ [permitted .joined false false, permitted .joined true false, permitted .joined false true,
        permitted .listening false true, permitted .muted true true, permitted .profile true false, full 6 .trip,
        full 7 .trip, full 8 .trip, full 8 (.yield 1)],
      p.eiu.permit.latch = true ∧ p.eiu.esd.latch = false ∧ p.eiu.trip.latch = false ∧ p.ttu.attempts < 3 ∧
        p.ae.committed.trips.getLsbD p.address.val = false ∧ p.lc.muted = false ∧ p.role = .consumer) ∧
      ¬ (permitted .joined false false).eiu.tripOutstanding = true ∧
      (permitted .joined false true).eiu.tripOutstanding = true ∧
      ((permitted .joined true false).profileWord 0).getLsbD 1 = true ∧
      ((permitted .joined false true).profileWord 0).getLsbD 1 = false ∧
      (full 8 .trip).eiu.tripOutstanding = true ∧ ((full 8 .trip).profileWord 0).getLsbD 1 = true ∧
      (∀ n ∈ [6, 7, 8], (full n .trip).lc.queue.length = n) ∧
      (∀ q ∈ waitingFrames (full 8 .trip).lc, ofClass .ordinary q = false) ∧
      (∃ q ∈ waitingFrames (full 8 (.yield 1)).lc, ofClass .ordinary q = true) ∧
      (∀ j ∈ [JoinState.profile, .listening, .muted], (permitted j true true).ae.join = j) := by
  decide +kernel

theorem test_hyp_AuxFilterAndEvent :
    (∀ r ∈ [Role.store, .flare], (auxAt true false (node .joined r 5)).eiu.wait = .running 0) ∧
      let s := latched false false false true (node .joined .flare 5)
      s.eiu.aux.latch = true ∧ s.eiu.esd.latch = false ∧ s.eiu.trip.latch = false ∧ s.eiu.permit.latch = false := by
  decide +kernel

theorem test_hyp_TargetDuty :
    (∀ k ∈ [OverrideKind.limit, .hold, .fixed, .rejoinHold, .startHold], (laid k 0 false).void = false ∧
      (laid k 0 false).expiries < 2) ∧ { laid .rejoinHold 0 false with expiries := 2 }.void = false ∧
      (isolatesNow (laid .isolate 0 false) ∧ ¬ isolatesNow (laid .limit 0 false) ∧ ¬ isolatesNow (laid .rejoinHold 0 false) ∧
        isolatesNow { laid .rejoinHold 0 false with expiries := 2 } ∧ ¬ isolatesNow (laid .isolate 0 true)) := by
  unfold isolatesNow; decide +kernel

theorem test_hyp_DeviceEntries :
    let four := [laid .limit 0 false, laid .hold 0 false, laid .fixed 0 false, laid .startHold 0 false]
    let void := [laid .limit 0 false, laid .esdIsolate 0 true, laid .hold 0 false, laid .fixed 0 false, laid .limit 0 false]
    let panel := [laid .limit 0 false, laid .isolate 0 false, laid .esdIsolate 0 false, laid .fixed 0 false,
      laid .startHold 0 false]
    panelKind .tripIsolate = false ∧ stackLaw void ∧ stackLaw panel ∧ four.length < 5 ∧
      (∀ e ∈ four ++ void ++ panel, e.kind ≠ .tripIsolate) ∧ (laid .esdIsolate 0 true) ∈ void ∧
      void = [laid .limit 0 false] ++
        laid .esdIsolate 0 true :: [laid .hold 0 false, laid .fixed 0 false, laid .limit 0 false] ∧
      panel = [laid .limit 0 false, laid .isolate 0 false, laid .esdIsolate 0 false] ++
        laid .fixed 0 false :: [laid .startHold 0 false] ∧ (∀ x ∈ panel, x.void = false) := by
  unfold stackLaw; decide +kernel

theorem test_hyp_plant_trip_and_presence :
    let s := node .joined .consumer 5
    let t := { race with ae := { race.ae with committed := { race.ae.committed with trips := 4 } } }
    s.role = .consumer ∧ s.ae.committed.trips = 0 ∧ s.ae.plantTrip = false ∧ t.ae.committed.trips ≠ 0 ∧
      { s.ae with plantTrip := true }.plantTrip = true ∧ race.ownEntry.presence = .live ∧ race.ae.ownLive = false ∧
      s.ownEntry.presence ≠ .live ∧ (race.profileWord 0).getLsbD 0 = false ∧
      ({ race with pp := { race.pp with image := race.pp.image.set 0 1 } }.profileWord 0).getLsbD 0 = true := by
  decide +kernel

theorem test_hyp_PeriodAndScan :
    let s := node .joined .store 5
    s.smp.scanning = none ∧ { s.smp with scanning := some 25000 }.scanning = some 25000 ∧ s.vd.applied = 0 ∧
      { s.vd with applied := 1023 }.applied = 1023 ∧ s.vd.periodStart ≤ s.now ∧
      19999 < s.vd.periodStart + 1000 * s.vd.period := by decide +kernel

theorem test_hyp_ExchangeAndCancel :
    let u := { race with pp := { race.pp with reply := none, exchange := .none } }
    let restart := holding 0x0E 0 0 u
    race.pp.exchange = .shifting 0 true ∧ race.pp.outcome = none ∧ Held u (word 0x08 0x02 0) ∧
      (Instr.demand, commandCode (word 0x08 0x02 0)) ∈ panelRows ∧ Held restart (word 0x0E 0 0) ∧
      (Instr.restart, commandCode (word 0x0E 0 0)) ∈ panelRows ∧ restart.ae.join ≠ .profile ∧
      Held (holding 0x12 0 0 u) (word 0x12 0 0) ∧ 0x11 < commandCode (word 0x12 0 0) ∧
      (node .joined .consumer 5).pp.exchange = .none ∧ (node .joined .consumer 5).pp.holding = none ∧
      commandCode (word 0x10 0 0) ≠ 0x11 ∧ commandCode (word 0x11 0 0) = 0x11 ∧
      { race.pp with exchange := .shifting 0 false }.reply = some (acceptedReply 0x05 0 0) ∧
      { race.pp with exchange := .voided }.exchange = .voided ∧
      { race.pp with outcome := some tooLateOutcome }.outcome = some tooLateOutcome ∧
      { u.pp with exchange := .shifting 0 false }.exchange = .shifting 0 false := by
  unfold Held; decide +kernel

/-- A word that arrives as a held RESTART is performed is kept or discarded by the operand. -/
theorem test_restart_and_arrival :
    let s := holding 0x0E 0 0 { race with pp := { race.pp with reply := none, exchange := .shifting 0 false } }
    [true, false].map (fun first => (portAfter (exec (.exchangeEnd 32 0x01000000 first) s)).map (·.1)) =
      [some (some 0x01000000), some none] := by decide +kernel

theorem test_hyp_ReadingCommands :
    (∀ c ∈ [0, 1, 2, 3, 4, 5, 6, 7, 0x12, 0xFF], ∀ a ∈ [0, 1, 4, 5, 6, 15, 16],
      Held (holding c a 0 (node .joined .consumer 5)) (word c a 0) ∧ commandCode (word c a 0) = c ∧
        argument1 (word c a 0) = a) ∧
      (node .joined .consumer 5).ae.latched.ch0 = none ∧
      (ninePlant [] [] [] 0 0 (nineQueue 4 4)).queue =
        [contract 6 3 3 [150, 250, 350] 55] ++ contract 7 2 2 [200, 300] 52 :: [contract 8 4 4 [120, 240, 360, 480] 58] := by
  unfold Held; decide +kernel

theorem test_hyp_DemandPassed :
    let s := { race with pp := { race.pp with reply := none } }
    let full := withQueue (List.replicate 8 (queued .trip)) s
    Held s (word 0x08 0x02 0) ∧ commandCode (word 0x08 0x02 0) = 0x08 ∧ s.role = .consumer ∧ s.ae.join = .joined ∧
      s.ownEntry.presence = .live ∧ argument1 (word 0x08 0x02 0) ≤ (imageDraws s.pp.image).length ∧
      (imageDraws s.pp.image).length < argument1 (word 0x08 0x04 0) ∧ s.ae.demand.stage = .idle ∧
      s.lc.muted = false ∧ s.lc.queue.length < 8 ∧ 8 ≤ full.lc.queue.length ∧ (node .joined .store 5).role ≠ .consumer ∧
      (node .listening .consumer 5).ownEntry.presence ≠ .live ∧
      { s.ae.demand with stage := .taken }.stage ≠ .idle := by
  unfold Held; decide +kernel

/-- The node with five entries in its stack. -/
def stacked (kinds : List (OverrideKind × Bool)) : State :=
  let s := node .joined .consumer 5
  { s with ovs := { stack := kinds.map fun k => laid k.1 0 k.2 } }

theorem test_hyp_PushAndPop :
    let void := stacked [(.limit, false), (.esdIsolate, true), (.hold, false), (.tripIsolate, true), (.fixed, false)]
    let panel := stacked [(.limit, false), (.esdIsolate, false), (.hold, false), (.tripIsolate, false), (.startHold, false)]
    let device := stacked [(.esdIsolate, false), (.tripIsolate, false), (.startHold, false), (.rejoinHold, false),
      (.plantTripIsolate, false)]
    (∀ a ∈ [0, 1, 2, 3, 4], Held (holding 0x09 a 1023 (node .joined .consumer 5)) (word 0x09 a 1023) ∧
      argument1 (word 0x09 a 1023) = a ∧ commandCode (word 0x09 a 1023) = 0x09) ∧
      (argumentWord23 (word 0x09 2 1023)).toNat ≤ ((node .joined .consumer 5).profileWord 19).toNat ∧
      ((node .joined .consumer 5).profileWord 19).toNat < (argumentWord23 (word 0x09 2 1024)).toNat ∧
      void.ovs.stack = [laid .limit 0 false, laid .esdIsolate 0 true, laid .hold 0 false] ++
        laid .tripIsolate 0 true :: [laid .fixed 0 false] ∧
      panel.ovs.stack = [laid .limit 0 false, laid .esdIsolate 0 false] ++
        laid .hold 0 false :: [laid .tripIsolate 0 false, laid .startHold 0 false] ∧
      (∀ x ∈ panel.ovs.stack, x.void = false) ∧
      (∀ x ∈ device.ovs.stack, x.void = false ∧ panelKind x.kind = false) ∧ stackLaw void.ovs.stack ∧
      Held (holding 0x0A 0 0 void) (word 0x0A 0 0) ∧ commandCode (word 0x0A 0 0) = 0x0A ∧
      (∀ x ∈ device.ovs.stack, panelKind x.kind = true → x.void = true) := by
  unfold Held stackLaw; decide +kernel

theorem test_hyp_HandoverAndTripClear :
    let holder := { flareNode with ae := { flareNode.ae with committed := { flareNode.ae.committed with duty := some 5 } } }
    let full := withQueue (List.replicate 8 (queued .trip)) (node .joined .store 5)
    (∀ a ∈ [0, 1, 2], Held (holding 0x0B a 0 holder) (word 0x0B a 0) ∧ commandCode (word 0x0B a 0) = 0x0B ∧
      argument1 (word 0x0B a 0) = a) ∧
      holder.ae.join = .joined ∧ holder.role = .flare ∧ holder.ae.committed.duty = some holder.address ∧
      roomToSend holder ∧ flareNode.ae.committed.duty ≠ some flareNode.address ∧
      (∀ a ∈ [15, 16], Held (holding 0x0C a 0 full) (word 0x0C a 0) ∧ commandCode (word 0x0C a 0) = 0x0C ∧
        argument1 (word 0x0C a 0) = a) ∧
      full.ttu.attempts < 3 ∧ full.ae.join = .joined ∧ full.lc.muted = false ∧ full.lc.queue.length = 8 ∧
      (∀ q ∈ waitingFrames full.lc, ofClass .ordinary q = false) ∧
      (∃ q ∈ waitingFrames (withQueue (List.replicate 8 (queued (.yield 1))) full).lc, ofClass .ordinary q = true) ∧
      8 ≤ (withQueue (List.replicate 8 (queued (.yield 1))) holder).lc.queue.length ∧
      ¬ ((node .listening .store 5).ae.join = .joined ∨ (node .listening .store 5).ae.join = .diverged) := by
  unfold Held roomToSend; decide +kernel

theorem test_hyp_ReleaseAndRestart :
    let s := { race with ae := { race.ae with ownLive := true }, pp := { race.pp with reply := none } }
    s.ae.join = .joined ∧ s.ae.ownLive = true ∧ s.ownEntry.presence = .live ∧ race.ae.ownLive = false ∧
      (∀ c ∈ [0x0D, 0x0E], Held (holding c 0 0 s) (word c 0 0) ∧ commandCode (word c 0 0) = c) ∧
      Held (holding 0x0E 0 0 (loading 0)) (word 0x0E 0 0) ∧ (loading 0).ae.join = .profile := by
  unfold Held; decide +kernel

theorem test_hyp_CommandsNotEnabled :
    let s := node .joined .consumer 5
    let waiting := { withQueue [queued .mark] s with now := 2001 }
    s.lc.queue = [] ∧ s.lc.onLine = none ∧ (sending [queued .mark] s).lc.onLine ≠ none ∧
      waiting.lc.line = .quiet 0 none ∧ 0 + 250 * 8 < waiting.now ∧ s.now < 0 + 250 * (24 - 16) ∧
      (lined (.busy 7 9 .nothing) s).lc.line = .busy 7 9 .nothing ∧
      ¬ (s.ae.join = .profile ∧ s.pp.windowOpen = true) ∧ s.ae.join ≠ .listening ∧ s.eiu.wait = .stopped ∧
      s.ttu.answerTimer = .stopped ∧ s.ttu.stallTimer = .stopped ∧ (loading 0).ae.roundTimer = .stopped ∧
      s.eiu.esd.latch = false ∧ s.eiu.trip.latch = false ∧ s.eiu.permit.latch = false ∧ s.eiu.aux.latch = false ∧
      s.smp.scanning = none ∧ s.pp.exchange = .none ∧ race.pp.exchange ≠ .none ∧ s.pp.holding = none := by decide +kernel

end Sys2Proof.Tests
end

