-- ==== Sys2Proof/Proofs/PresenceStage.lean ====
section
/-! SUPPORT. What a close leaves of a station's entry: the stages behind the presence stage write nothing but last
verdicts (R13, R63, R80), so presence and counts are those of R5's table. -/

namespace Sys2Proof.Stations

open Sys2Proof.Machine Sys2Proof.Safety

/-! The stages behind the presence stage write only verdicts. -/

/-- The later table differs from the earlier in last verdicts alone. -/
def OnlyVerdicts (before after : List Entry) : Prop :=
  ∀ a, entryOf after a = { entryOf before a with verdict := (entryOf after a).verdict }

theorem OnlyVerdicts.refl (t : List Entry) : OnlyVerdicts t t := fun _ => rfl

theorem OnlyVerdicts.trans {t u w : List Entry} (h₁ : OnlyVerdicts t u) (h₂ : OnlyVerdicts u w) :
    OnlyVerdicts t w := by
  intro a
  rw [h₂ a, h₁ a]

/-- An address beyond the table's end reads as a cleared entry, and the write there is lost. -/
theorem entryOf_withEntry (t : List Entry) (a b : Address) (e : Entry) :
    entryOf (withEntry t a e) b = if a = b ∧ a.val < t.length then e else entryOf t b := by
  unfold entryOf withEntry
  rw [List.getD_eq_getElem?_getD, List.getD_eq_getElem?_getD, List.getElem?_set]
  by_cases hab : a = b
  · subst hab
    by_cases hlen : a.val < t.length <;> simp [hlen]
  · simp [hab, Fin.val_inj]

theorem onlyVerdicts_withVerdict (t : List Entry) (a : Address) (v : Verdict) :
    OnlyVerdicts t (withVerdict t a v) := by
  intro b
  unfold withVerdict
  rw [entryOf_withEntry]
  split
  · next h => rw [h.1]
  · rfl

theorem onlyVerdicts_write (p : ClaimPass) (a : Address) (v : Verdict) :
    OnlyVerdicts p.table (p.write a v).table :=
  onlyVerdicts_withVerdict p.table a v

theorem onlyVerdicts_endContract (p : ClaimPass) (a : Address) :
    OnlyVerdicts p.table (endContract p a).table :=
  onlyVerdicts_withVerdict p.table a .none

theorem onlyVerdicts_claimNew (p : ClaimPass) (a : Address) (round : Word16) (b : ClaimBody) :
    OnlyVerdicts p.table (claimNew p a round b).table := by
  unfold claimNew
  split_ifs
  · exact onlyVerdicts_write p a _
  · exact onlyVerdicts_write p a _
  · exact onlyVerdicts_write p a _
  · exact onlyVerdicts_write p a _
  · exact .refl p.table

theorem onlyVerdicts_claimHeld (p : ClaimPass) (a : Address) (b : ClaimBody) :
    OnlyVerdicts p.table (claimHeld p a b).table := by
  unfold claimHeld
  split_ifs
  · exact onlyVerdicts_endContract p a
  · exact onlyVerdicts_write p a _
  · exact .refl p.table

theorem onlyVerdicts_yieldHeld (p : ClaimPass) (a : Address) (q : QueueEntry) (tier : Nat) :
    OnlyVerdicts p.table (yieldHeld p a q tier).table := by
  unfold yieldHeld
  split_ifs
  · exact onlyVerdicts_endContract p a
  · exact .refl p.table
  · exact onlyVerdicts_write p a _

theorem onlyVerdicts_claimRecord (p : ClaimPass) (r : Record) : OnlyVerdicts p.table (claimRecord p r).table := by
  cases r with
  | claim a round b =>
    simp only [claimRecord]
    split
    · exact onlyVerdicts_claimNew p a round b
    · exact onlyVerdicts_claimHeld p a b
  | yield a tier =>
    simp only [claimRecord]
    split
    · exact .refl p.table
    · exact onlyVerdicts_yieldHeld p a _ tier
  | _ => exact .refl p.table

theorem onlyVerdicts_claimStage (journal : List Record) (t : List Entry) (queue : List QueueEntry) :
    OnlyVerdicts t (claimStage journal t queue).table :=
  List.foldlRecOn (motive := fun p : ClaimPass => OnlyVerdicts t p.table) _ _ (.refl t)
    fun p hp r _ => hp.trans (onlyVerdicts_claimRecord p r)

theorem onlyVerdicts_writeVerdicts (t : List Entry) (vs : List (Address × Verdict)) :
    OnlyVerdicts t (writeVerdicts t vs) :=
  List.foldlRecOn (motive := OnlyVerdicts t) _ _ (.refl t)
    fun u hu v _ => hu.trans (onlyVerdicts_withVerdict u v.1 v.2)

theorem onlyVerdicts_allocationStage (c : Committed) (marked written : Word16) :
    OnlyVerdicts c.table (allocationStage c marked written).state.table := by
  unfold allocationStage
  split_ifs
  · exact .refl c.table
  · exact onlyVerdicts_writeVerdicts c.table _

theorem onlyVerdicts_closeState (c : Committed) (journal : List Record) :
    OnlyVerdicts (presenceStage journal c.table) (closeState c journal).state.table :=
  (onlyVerdicts_claimStage journal _ c.queue).trans (onlyVerdicts_allocationStage _ _ _)

/-! Counted STATUS records (R3) and R5's table. -/

/-- At an ABSENT or LOST entry the first record is always counted; at a JOINING or LIVE one those of its role. -/
theorem countedStatuses_ne_nil_iff (e : Entry) (bodies : List StatusBody) :
    countedStatuses e bodies ≠ [] ↔
      ∃ b ∈ bodies, e.presence = .absent ∨ e.presence = .lost ∨ e.role = some b.role := by
  cases bodies with
  | nil => simp [countedStatuses]
  | cons first rest =>
    have hcounted : ∀ r, (first :: rest).filter (fun b => decide (some b.role = r)) ≠ [] ↔
        ∃ b ∈ first :: rest, some b.role = r := by
      intro r
      simp only [ne_eq, List.filter_eq_nil_iff, decide_eq_true_eq, not_forall, not_not, exists_prop]
    unfold countedStatuses countedRole
    rw [hcounted]
    cases e.presence with
    | joining | live => simp [eq_comm]
    | absent | lost => simp

theorem heardIn_iff (journal : List Record) (a : Address) (e : Entry) :
    heardIn journal a e ↔ countedStatuses e (statusesOf (afterAnnounce journal) a) ≠ [] :=
  (countedStatuses_ne_nil_iff ..).symm

theorem entryOf_presenceStage (journal : List Record) (t : List Entry) (a : Address) :
    entryOf (presenceStage journal t) a = presenceEntry journal a (entryOf t a) := by
  fin_cases a <;> rfl

/-- What R5's table speaks of in an entry: presence, heard count and miss count. -/
def standing (e : Entry) : Presence × Nat × Nat := (e.presence, e.heard, e.miss)

theorem standing_eq_iff (e : Entry) (p : Presence) (heard miss : Nat) :
    standing e = (p, heard, miss) ↔ e.presence = p ∧ e.heard = heard ∧ e.miss = miss := by
  simp [standing]

theorem standing_of_onlyVerdicts {t u : List Entry} (h : OnlyVerdicts t u) (a : Address) :
    standing (entryOf u a) = standing (entryOf t a) := by
  rw [h a]
  rfl

/-- The entry after the presence stage, from the opened entry and its counted STATUS records. -/
def entryAfterCounted (e : Entry) (counted : List StatusBody) : Entry :=
  match counted.getLast? with
  | none => missedEntry e
  | some last => heardEntry e counted last

theorem presenceEntry_eq_entryAfterCounted (c : Committed) (journal : List Record) (a : Address) :
    presenceEntry journal a (entryOf c.table a) =
      entryAfterCounted (openedEntry c journal a)
        (countedStatuses (openedEntry c journal a) (statusesOf (afterAnnounce journal) a)) := rfl

theorem standing_entryAfterCounted_nil (e : Entry) :
    standing (entryAfterCounted e []) = presenceStep e false := rfl

theorem standing_entryAfterCounted_of_ne_nil (e : Entry) {counted : List StatusBody} (h : counted ≠ []) :
    standing (entryAfterCounted e counted) = presenceStep e true := by
  simp only [entryAfterCounted, List.getLast?_eq_some_getLast h]
  rfl

/-- The verdicts that later stages write leave R5's row as the presence stage made it. -/
theorem standing_closeState (c : Committed) (journal : List Record) (a : Address) :
    standing (entryOf (closeState c journal).state.table a) =
      standing (entryAfterCounted (openedEntry c journal a)
        (countedStatuses (openedEntry c journal a) (statusesOf (afterAnnounce journal) a))) := by
  rw [standing_of_onlyVerdicts (onlyVerdicts_closeState c journal), entryOf_presenceStage,
    presenceEntry_eq_entryAfterCounted]

theorem standing_closeState_of_heard (c : Committed) (journal : List Record) (a : Address)
    (h : heardIn journal a (openedEntry c journal a)) :
    standing (entryOf (closeState c journal).state.table a) = presenceStep (openedEntry c journal a) true := by
  rw [standing_closeState]
  exact standing_entryAfterCounted_of_ne_nil _ ((heardIn_iff ..).mp h)

theorem standing_closeState_of_not_heard (c : Committed) (journal : List Record) (a : Address)
    (h : ¬ heardIn journal a (openedEntry c journal a)) :
    standing (entryOf (closeState c journal).state.table a) = presenceStep (openedEntry c journal a) false := by
  rw [heardIn_iff, not_not] at h
  rw [standing_closeState, h, standing_entryAfterCounted_nil]

/-- Settles O18: the close leaves the standing of the presence stage, which is R5's step from the opened entry; the
ten rows are that step's cases. -/
theorem presenceTable : Obligations.PresenceTable := by
  unfold Obligations.PresenceTable
  intro c journal a e after heard is
  have of_heard (hh : heard) : standing after = presenceStep e true :=
    standing_closeState_of_heard c journal a hh
  have of_missed (hm : ¬ heard) : standing after = presenceStep e false :=
    standing_closeState_of_not_heard c journal a hm
  simp only [is, ← standing_eq_iff]
  refine ⟨?absent_missed, ?absent_heard, ?joining_missed, ?joining_first, ?joining_second, ?live_heard,
    ?live_missed, ?live_third, ?lost_missed, ?lost_heard⟩
  case absent_missed | joining_missed | lost_missed =>
    intro hp hm
    simp [of_missed hm, presenceStep, hp]
  case absent_heard | live_heard | lost_heard =>
    intro hp hh
    simp [of_heard hh, presenceStep, hp]
  case joining_first | joining_second =>
    intro hp hcount hh
    simp [of_heard hh, presenceStep, hp, hcount]
  case live_missed | live_third =>
    intro hp hmiss hm
    simp [of_missed hm, presenceStep, hp, hmiss]

end Sys2Proof.Stations
end

