-- ==== Sys2Proof/Proofs/CommandEnabling.lean ====
section
/-! SUPPORT. When a command is not enabled (log 3): for each guard of a command's meaning, the condition under which
it takes nothing up, and that the command then answers its state. -/

namespace Sys2Proof.Enabling

open Sys2Proof.Machine Sys2Proof.Safety

/-! The timers. -/

theorem timerDue_of_not_running {t : Timer} (h : ∀ since, t ≠ .running since) (duration : Nat) :
    timerDue t duration = none := by
  cases t with
  | stopped => rfl
  | held => rfl
  | running since => exact absurd rfl (h since)

theorem loaderOpen_eq_true_iff (s : State) :
    s.loaderOpen = true ↔ s.ae.join = .profile ∧ s.pp.windowOpen = true := by
  simp [State.loaderOpen]

theorem profileWindowExpiry_not_enabled {s : State} (h : ¬ (s.ae.join = .profile ∧ s.pp.windowOpen = true)) :
    exec .profileWindowExpiry s = .next s := by
  rw [← loaderOpen_eq_true_iff] at h
  simp only [exec, execProfileWindowExpiry, if_neg h]

theorem roundTimerExpiry_not_enabled {s : State} (h : ∀ since, s.ae.roundTimer ≠ .running since) :
    exec .roundTimerExpiry s = .next s := by
  simp only [exec, execRoundTimerExpiry, timerDue_of_not_running h]

theorem answerTimerExpiry_not_enabled {s : State} (h : ∀ since, s.ttu.answerTimer ≠ .running since) :
    exec .answerTimerExpiry s = .next s := by
  simp only [exec, execAnswerTimerExpiry, timerDue_of_not_running h]

theorem stallTimerExpiry_not_enabled {s : State} (h : ∀ since, s.ttu.stallTimer ≠ .running since) :
    exec .stallTimerExpiry s = .next s := by
  simp only [exec, execStallTimerExpiry, timerDue_of_not_running h]

/-- The silence timer counts in LISTENING alone (R123). -/
theorem silenceTimerExpiry_not_enabled {s : State}
    (h : s.ae.join ≠ .listening ∨ ∀ since, s.ae.silenceTimer ≠ .running since) :
    exec .silenceTimerExpiry s = .next s := by
  simp only [exec, execSilenceTimerExpiry]
  rcases h with notListening | notRunning
  · cases timerDue s.ae.silenceTimer silenceTime with
    | none => rfl
    | some due => simp only [if_neg notListening]
  · rw [timerDue_of_not_running notRunning]

/-- IN3's one wait is the debounce everywhere but at a flare (R149). -/
theorem in3DebounceExpiry_not_enabled {s : State} (h : s.role = .flare ∨ ∀ since, s.eiu.wait ≠ .running since) :
    exec .in3DebounceExpiry s = .next s := by
  simp only [exec, execIn3DebounceExpiry]
  rcases h with flare | notRunning
  · cases timerDue s.eiu.wait debounceTime with
    | none => rfl
    | some due => simp only [if_pos flare]
  · rw [timerDue_of_not_running notRunning]

/-- IN3's one wait is the flame proving time at a flare alone (R149). -/
theorem flameProvingExpiry_not_enabled {s : State} (h : s.role ≠ .flare ∨ ∀ since, s.eiu.wait ≠ .running since) :
    exec .flameProvingExpiry s = .next s := by
  simp only [exec, execFlameProvingExpiry]
  rcases h with notFlare | notRunning
  · cases timerDue s.eiu.wait provingTime with
    | none => rfl
    | some due => simp only [if_neg notFlare]
  · rw [timerDue_of_not_running notRunning]

/-! FRAME_START: the frame that may start, and the moment it starts at (R24). -/

theorem startable_eq_some {s : State} {q : QueuedFrame} {since : Nat} (h : s.startable = some (q, since)) :
    s.lc.onLine = none ∧ s.lc.queue.head? = some q ∧ (∃ view, s.lc.line = .quiet since view) ∧
      admits s.ae.join s.lc.muted q.body = true := by
  unfold State.startable at h
  split at h
  next head rest quiet offLine queued isQuiet =>
    obtain ⟨admitted, heads⟩ := Option.ite_none_right_eq_some.mp h
    obtain ⟨rfl, rfl⟩ := Prod.mk.inj (Option.some.inj heads)
    cases line : s.lc.line with
    | quiet since view =>
      rw [line] at isQuiet
      exact ⟨offLine, by rw [queued]; rfl, ⟨view, by rw [Option.some.inj isQuiet]⟩, admitted⟩
    | busy first last own =>
      rw [line] at isQuiet
      exact absurd isQuiet (by simp [quietSince])
  next => exact absurd h (by simp)

theorem rankView_quiet (since : Nat) (view : Option Address) (lastSender : Address) :
    rankView (.quiet since view) lastSender = view.getD lastSender := by
  cases view <;> rfl

theorem rankOf_eq_val_sub (own lastSender : Address) : rankOf own lastSender = (own - lastSender - 1).val := by
  simp only [rankOf, Fin.val_sub, Fin.val_one]
  omega

/-- A start moment is 3 + r + 16k slots of quiet (R24). -/
theorem exists_of_startMoment {own lastSender : Address} {slots : Nat} (h : startMoment own lastSender slots = true) :
    ∃ k, slots = 3 + (own - lastSender - 1).val + 16 * k := by
  simp only [startMoment, decide_eq_true_eq, rankOf_eq_val_sub] at h
  exact ⟨(slots - 3) / 16, by omega⟩

/-- The first moment that has not passed: it is not before now, and the moment before it is not after now (R24;
log 23). -/
theorem firstMoment_bounds {own lastSender : Address} {since now slots : Nat}
    (h : firstMoment own lastSender since now slots = true) :
    now ≤ since + 250 * slots ∧
      (3 + (own - lastSender - 1).val + 16 ≤ slots → since + 250 * (slots - 16) ≤ now) := by
  simpa only [firstMoment, decide_eq_true_eq, rankOf_eq_val_sub, accessSlot] using h

theorem frameStart_of_not_startsAt {s : State} {slots : Nat}
    (h : ∀ q since, s.startable = some (q, since) → s.startsAt since slots = false) :
    exec (.frameStart slots) s = .next s := by
  simp only [exec, execFrameStart]
  cases start : s.startable with
  | none => rfl
  | some found =>
    obtain ⟨q, since⟩ := found
    simp only [h q since start, Bool.false_eq_true, if_false]

/-- A quiet of so many slots is no start moment, is one that has passed, or comes after one that has not. -/
theorem startsAt_eq_false {s : State} {since slots : Nat} {view : Option Address}
    (quiet : s.lc.line = .quiet since view)
    (h : let base := 3 + (s.address - view.getD s.lc.lastSender - 1).val
      (∀ k, slots ≠ base + 16 * k) ∨ since + 250 * slots < s.now ∨
        (base + 16 ≤ slots ∧ s.now < since + 250 * (slots - 16))) :
    s.startsAt since slots = false := by
  rw [Bool.eq_false_iff]
  intro starts
  simp only [State.startsAt, quiet, rankView_quiet, Bool.and_eq_true] at starts
  obtain ⟨k, atMoment⟩ := exists_of_startMoment starts.1
  obtain ⟨notPassed, previousPassed⟩ := firstMoment_bounds starts.2
  rcases h with noMoment | passed | ⟨later, early⟩
  · exact noMoment k atMoment
  · omega
  · exact absurd (previousPassed later) (by omega)

/-- No frame starts where one is on the line, none waits, the line is busy, the head is not admitted, or the moment is
not the one to start at. -/
theorem frameStart_not_enabled {s : State} {slots : Nat}
    (h : s.lc.onLine ≠ none ∨ s.lc.queue = [] ∨ (∃ first last own, s.lc.line = .busy first last own) ∨
      (∃ q ∈ s.lc.queue.head?, admits s.ae.join s.lc.muted q.body = false) ∨
      ∃ since view, s.lc.line = .quiet since view ∧
        let base := 3 + (s.address - view.getD s.lc.lastSender - 1).val
        ((∀ k, slots ≠ base + 16 * k) ∨ since + 250 * slots < s.now ∨
          (base + 16 ≤ slots ∧ s.now < since + 250 * (slots - 16)))) :
    exec (.frameStart slots) s = .next s := by
  refine frameStart_of_not_startsAt fun q quietFrom start => ?_
  obtain ⟨offLine, head, ⟨view, quiet⟩, admitted⟩ := startable_eq_some start
  rcases h with onLine | empty | ⟨first, last, own, busy⟩ | ⟨p, atHead, refused⟩ | ⟨since, view', quiet', notMoment⟩
  · exact absurd offLine onLine
  · simp [empty] at head
  · simp [busy] at quiet
  · obtain rfl : p = q := Option.some.inj (atHead.symm.trans head)
    simp [refused] at admitted
  · obtain ⟨rfl, rfl⟩ := LineState.quiet.inj (quiet.symm.trans quiet')
    exact startsAt_eq_false quiet notMoment

/-! The own frame in progress (R26, R27; log 4). -/

theorem collision_of_no_own_frame {s : State} (h : s.lc.onLine = none) : exec .collision s = .next s := by
  simp only [exec, execCollision, h]

theorem frameSent_of_no_own_frame {s : State} (h : s.lc.onLine = none) : exec .frameSent s = .next s := by
  simp only [exec, execFrameSent, h]

theorem startBitDetected_of_own_frame {s : State} (h : s.lc.onLine ≠ none) :
    exec .startBitDetected s = .next s := by
  simp only [exec, execStartBitDetected, if_pos (Option.isSome_iff_ne_none.mpr h)]

theorem frameEnd_of_own_frame {s : State} (h : s.lc.onLine ≠ none) (chars : List Byte) (framingError : Bool) :
    exec (.frameEnd chars framingError) s = .next s := by
  obtain ⟨frame, onLine⟩ := Option.ne_none_iff_exists'.mp h
  simp only [exec, execFrameEnd, onLine]

/-! The latched events, in their order of priority (R145). -/

theorem esdEvent_not_enabled {s : State} (h : s.eiu.esd.latch = false) : exec .esdEvent s = .next s := by
  simp [exec, execEsdEvent, h]

theorem tripEvent_not_enabled {s : State} (h : s.eiu.trip.latch = false ∨ s.eiu.esd.latch = true) :
    exec .tripEvent s = .next s := by
  simp only [exec, execTripEvent]
  rcases h with clear | esd
  · simp [clear]
  · simp [esd]

theorem permitEvent_not_enabled {s : State}
    (h : s.eiu.permit.latch = false ∨ s.eiu.esd.latch = true ∨ s.eiu.trip.latch = true) :
    exec .permitEvent s = .next s := by
  simp only [exec, execPermitEvent]
  rcases h with clear | esd | trip
  · simp [clear]
  · simp [esd]
  · simp [trip]

theorem auxEvent_not_enabled {s : State}
    (h : s.eiu.aux.latch = false ∨ s.eiu.esd.latch = true ∨ s.eiu.trip.latch = true ∨ s.eiu.permit.latch = true) :
    exec .auxEvent s = .next s := by
  simp only [exec, execAuxEvent]
  rcases h with clear | esd | trip | permit
  · simp [clear]
  · simp [esd]
  · simp [trip]
  · simp [permit]

/-! Scans and exchanges (R151, R155). -/

theorem scanStart_of_scanning {s : State} (h : s.smp.scanning ≠ none) : exec .scanStart s = .next s := by
  obtain ⟨since, scanning⟩ := Option.ne_none_iff_exists'.mp h
  simp only [exec, execScanStart, scanning]

theorem scanComplete_of_not_scanning {s : State} (h : s.smp.scanning = none) (codes : ScanCodes) :
    exec (.scanComplete codes) s = .next s := by
  simp only [exec, execScanComplete, h]

theorem exchangeStart_of_exchange {s : State} (h : s.pp.exchange ≠ .none) : exec .exchangeStart s = .next s := by
  simp only [exec, execExchangeStart]
  cases exchange : s.pp.exchange with
  | none => exact absurd exchange h
  | shifting word isReply => rfl
  | voided => rfl

theorem exchangeEnd_of_no_exchange {s : State} (h : s.pp.exchange = .none) (edges : Nat) (word : Word32)
    (handlerFirst : Bool) : exec (.exchangeEnd edges word handlerFirst) s = .next s := by
  simp only [exec, execExchangeEnd, h]

/-! The panel commands: the handler takes a held command of the row's code, or nothing (R156; log 5). -/

theorem handlerFree_eq_true_iff (p : PanelPort) : handlerFree p = true ↔ p.reply = none ∧ p.outcome = none := by
  simp [handlerFree]

theorem takeable_eq_none {s : State} {code : Nat → Bool}
    (h : ∀ w, s.pp.holding = some w → code (commandCode w) = true → s.pp.reply ≠ none ∨ s.pp.outcome ≠ none) :
    s.takeable code = none := by
  unfold State.takeable
  cases held : s.pp.holding with
  | none => rfl
  | some w =>
    refine if_neg fun taken => ?_
    obtain ⟨named, free⟩ := Bool.and_eq_true_iff.mp taken
    obtain ⟨noReply, noOutcome⟩ := (handlerFree_eq_true_iff s.pp).mp free
    exact (h w held named).elim (absurd noReply) (absurd noOutcome)

theorem takeHeld_of_not_takeable {s : State} {code : Nat}
    (h : ∀ w, s.pp.holding = some w → commandCode w = code → s.pp.reply ≠ none ∨ s.pp.outcome ≠ none)
    (command : Word32 → State → State) : takeHeld code command s = s := by
  have none_taken : s.takeable (fun c => decide (c = code)) = none :=
    takeable_eq_none fun w held named => h w held (of_decide_eq_true named)
  simp only [takeHeld, none_taken]

/-- Every panel row is the handler's taking of a held command with the row's code. -/
theorem exec_panelRow {p : Instr × Nat} (h : p ∈ panelRows) (s : State) :
    ∃ command, exec p.1 s = .next (takeHeld p.2 command s) := by
  fin_cases h <;> exact ⟨_, rfl⟩

theorem panelRow_not_enabled {s : State} {p : Instr × Nat} (row : p ∈ panelRows)
    (h : ∀ w, s.pp.holding = some w → commandCode w = p.2 → s.pp.reply ≠ none ∨ s.pp.outcome ≠ none) :
    exec p.1 s = .next s := by
  obtain ⟨command, taken⟩ := exec_panelRow row s
  rw [taken, takeHeld_of_not_takeable h]

theorem illegalCommandCode_not_enabled {s : State}
    (h : ∀ w, s.pp.holding = some w → 0x11 < commandCode w → s.pp.reply ≠ none ∨ s.pp.outcome ≠ none) :
    exec .illegalCommandCode s = .next s := by
  have none_taken : s.takeable (fun c => decide (codeCancel < c)) = none :=
    takeable_eq_none fun w held unassigned => h w held (of_decide_eq_true unassigned)
  simp only [exec, execIllegalCommandCode, none_taken]

/-- Settles O60: each command by the guard of its meaning. -/
theorem commandsNotEnabled : Obligations.CommandsNotEnabled := by
  unfold Obligations.CommandsNotEnabled
  intro s
  exact ⟨fun _ => frameStart_not_enabled,
    fun noFrame => ⟨collision_of_no_own_frame noFrame, frameSent_of_no_own_frame noFrame⟩,
    fun ownFrame => ⟨startBitDetected_of_own_frame ownFrame, frameEnd_of_own_frame ownFrame⟩,
    profileWindowExpiry_not_enabled, roundTimerExpiry_not_enabled, silenceTimerExpiry_not_enabled,
    answerTimerExpiry_not_enabled, stallTimerExpiry_not_enabled, in3DebounceExpiry_not_enabled,
    flameProvingExpiry_not_enabled, esdEvent_not_enabled, tripEvent_not_enabled, permitEvent_not_enabled,
    auxEvent_not_enabled, scanStart_of_scanning, scanComplete_of_not_scanning, exchangeStart_of_exchange,
    exchangeEnd_of_no_exchange, fun _ => panelRow_not_enabled, illegalCommandCode_not_enabled⟩

end Sys2Proof.Enabling
end

