-- ==== Sys2Proof/Proofs/ClaimTests.lean ====
section
/-! SUPPORT. The tests of a CLAIM: the contract check as a condition on the record (R53), the queue without an entry of
the sender, and what a CLAIM from such a sender does (R58). -/

namespace Sys2Proof.Claims

open Sys2Proof.Machine Sys2Proof.Safety

/-! The contract check (R53). -/

theorem ascending_eq_true_iff (draws : List Word16) : ascending draws = true ↔ draws.Pairwise (· < ·) := by
  rw [← List.isChain_iff_pairwise]
  induction draws with
  | nil => simp [ascending]
  | cons d rest ih =>
    cases rest with
    | nil => simp [ascending]
    | cons e rest =>
      rw [ascending, Bool.and_eq_true, decide_eq_true_eq, ih, List.isChain_cons_cons]

theorem contractPasses_eq_true_iff (b : ClaimBody) : contractPasses b = true ↔ contractFits b := by
  simp only [contractPasses, contractFits, Bool.and_eq_true, decide_eq_true_eq, List.all_eq_true,
    ascending_eq_true_iff, and_assoc]

/-- The third test of R58 as one condition: the check itself leaves no room for tier 0. -/
theorem tierTest_fails_iff (b : ClaimBody) : b.tier = 0 ∨ contractPasses b = false ↔ ¬ contractFits b := by
  rw [← Bool.not_eq_true, contractPasses_eq_true_iff, or_iff_right_iff_imp]
  rintro tier_zero ⟨-, -, -, -, tier_pos, -, -⟩
  omega

/-! A station without an entry. -/

theorem queueEntryOf_eq_none_iff (queue : List QueueEntry) (a : Address) :
    queueEntryOf queue a = none ↔ ∀ q ∈ queue, q.claimant ≠ a := by
  simp only [queueEntryOf, List.find?_eq_none, decide_eq_true_eq, ne_eq]

theorem write_eq_verdictWritten (p : ClaimPass) (a : Address) (v : Verdict) : p.write a v = verdictWritten p a v := rfl

theorem claimRecord_claim_of_no_entry {p : ClaimPass} {a : Address} (h : ∀ q ∈ p.queue, q.claimant ≠ a)
    (round : Word16) (b : ClaimBody) : claimRecord p (.claim a round b) = claimNew p a round b := by
  rw [claimRecord, (queueEntryOf_eq_none_iff p.queue a).mpr h]

/-! What a CLAIM from a station without an entry does, test by test (R58). -/

section
variable {p : ClaimPass} {a : Address} {b : ClaimBody}

theorem claimNew_of_not_live (not_live : (entryOf p.table a).presence ≠ .live) (round : Word16) :
    claimNew p a round b = verdictWritten p a .refusedNotLive := by
  rw [claimNew, if_pos not_live, write_eq_verdictWritten]

theorem claimNew_of_not_consumer (live : (entryOf p.table a).presence = .live)
    (not_consumer : (entryOf p.table a).role ≠ some .consumer) (round : Word16) :
    claimNew p a round b = verdictWritten p a .refusedRole := by
  rw [claimNew, if_neg (not_not.mpr live), if_pos not_consumer, write_eq_verdictWritten]

theorem claimNew_of_misfit (live : (entryOf p.table a).presence = .live)
    (consumer : (entryOf p.table a).role = some .consumer) (misfit : ¬ contractFits b) (round : Word16) :
    claimNew p a round b = verdictWritten p a .refusedTier := by
  rw [claimNew, if_neg (not_not.mpr live), if_neg (not_not.mpr consumer), if_pos ((tierTest_fails_iff b).mpr misfit),
    write_eq_verdictWritten]

theorem claimNew_of_full (live : (entryOf p.table a).presence = .live)
    (consumer : (entryOf p.table a).role = some .consumer) (fits : contractFits b) (full : 12 ≤ p.queue.length)
    (round : Word16) : claimNew p a round b = verdictWritten p a .refusedFull := by
  have passed : ¬ (b.tier = 0 ∨ contractPasses b = false) := fun h => (tierTest_fails_iff b).mp h fits
  rw [claimNew, if_neg (not_not.mpr live), if_neg (not_not.mpr consumer), if_neg passed, claimCapacity, if_pos full,
    write_eq_verdictWritten]

theorem claimNew_of_passed (live : (entryOf p.table a).presence = .live)
    (consumer : (entryOf p.table a).role = some .consumer) (fits : contractFits b) (room : ¬ 12 ≤ p.queue.length)
    (round : Word16) :
    claimNew p a round b =
      { p with queue := p.queue ++ [newContract a round b], marked := withStation p.marked a } := by
  have passed : ¬ (b.tier = 0 ∨ contractPasses b = false) := fun h => (tierTest_fails_iff b).mp h fits
  rw [claimNew, if_neg (not_not.mpr live), if_neg (not_not.mpr consumer), if_neg passed, claimCapacity, if_neg room]

end

/-- Settles O20: a case for each of the four tests of R58, and one for the CLAIM that passes them. -/
theorem claimWithoutEntry : Obligations.ClaimWithoutEntry := by
  unfold Obligations.ClaimWithoutEntry
  intro p a round b no_entry passes refused
  rw [claimRecord_claim_of_no_entry no_entry]
  simp only [ne_eq, ite_not]
  split_ifs with live consumer fits full
  · exact claimNew_of_full live consumer fits full round
  · exact claimNew_of_passed live consumer fits full round
  · exact claimNew_of_misfit live consumer fits round
  · exact claimNew_of_not_consumer live consumer round
  · exact claimNew_of_not_live live round

end Sys2Proof.Claims
end

