-- ==== Sys2Proof/Proofs/AvailableGas.lean ====
section
/-! SUPPORT. Production, plant methane, the holder and the available gas in terms of the figures of the stations by
address (R70 to R73), and that last verdicts play no part in them. -/

namespace Sys2Proof.Gas

open Sys2Proof.Machine Sys2Proof.Safety Sys2Proof.Stations

/-! Production, methane and the holder from the figures by address. -/

theorem liveOfRole_eq_map_liveStations (table : List Entry) (role : Role) :
    liveOfRole table role = (liveStations table role).map fun a => (a, entryOf table a) := by
  simp only [liveOfRole, liveStations, List.filter_map, Function.comp_def]

theorem figureOf_entryOf (table : List Entry) (a : Address) (slot : Nat) :
    figureOf (entryOf table a) slot = tableFigure table a slot := rfl

theorem production_eq_sum (table : List Entry) :
    production table = ((liveStations table .producer).map fun a => tableFigure table a 0).sum := by
  simp only [production, liveOfRole_eq_map_liveStations, List.map_map, Function.comp_def, figureOf_entryOf]

/-- The production-weighted mean; a division by 0 would give 0 too, as R70 has it at production 0. -/
theorem plantMethane_eq_div (table : List Entry) :
    plantMethane table =
      ((liveStations table .producer).map fun a => tableFigure table a 0 * tableFigure table a 1).sum /
        production table := by
  simp only [plantMethane, liveOfRole_eq_map_liveStations, List.map_map, Function.comp_def, figureOf_entryOf]
  split
  · next idle => rw [idle, Nat.div_zero]
  · rfl

theorem countedStores_eq_map_storesCounted (table : List Entry) :
    countedStores table = (storesCounted table).map (entryOf table) := by
  simp only [countedStores, storesCounted, liveOfRole_eq_map_liveStations, List.map_map, List.filter_map,
    Function.comp_def, figureOf_entryOf]
  rfl

/-- The holder as a close sees it where a store is taken into account: the fill of all of them, the bands, k and M of
this one. -/
def holderAt (table : List Entry) (first : Address) : Holder :=
  { fill := holderFill table, low := tableFigure table first 2, flareBand := tableFigure table first 3
    fullBand := tableFigure table first 4, drawdown := tableFigure table first 5
    discharge := tableFigure table first 6 }

theorem holderOf_eq_map_head? (table : List Entry) :
    holderOf table = (storesCounted table).head?.map (holderAt table) := by
  unfold holderOf
  rw [countedStores_eq_map_storesCounted]
  cases counted : storesCounted table with
  | nil => rfl
  | cons first rest =>
    simp only [List.map_cons, List.map_map, Function.comp_def, figureOf_entryOf, List.head?_cons, Option.map_some,
      holderAt, holderFill, counted]

theorem holderOf_of_no_store {table : List Entry} (none_counts : storesCounted table = []) :
    holderOf table = none := by
  rw [holderOf_eq_map_head?, none_counts]
  rfl

theorem holderOf_of_stores {table : List Entry} {first : Address} {rest : List Address}
    (counted : storesCounted table = first :: rest) : holderOf table = some (holderAt table first) := by
  rw [holderOf_eq_map_head?, counted]
  rfl

/-! Last verdicts play no part: tables that differ in them alone have the same gas. -/

section
variable {t u : List Entry}

theorem presence_of_onlyVerdicts (h : OnlyVerdicts t u) (a : Address) :
    (entryOf u a).presence = (entryOf t a).presence := by rw [h a]

theorem role_of_onlyVerdicts (h : OnlyVerdicts t u) (a : Address) :
    (entryOf u a).role = (entryOf t a).role := by rw [h a]

theorem tableFigure_of_onlyVerdicts (h : OnlyVerdicts t u) (a : Address) (slot : Nat) :
    tableFigure u a slot = tableFigure t a slot := by
  unfold tableFigure
  rw [h a]

theorem liveStations_of_onlyVerdicts (h : OnlyVerdicts t u) (role : Role) :
    liveStations u role = liveStations t role := by
  simp only [liveStations, presence_of_onlyVerdicts h, role_of_onlyVerdicts h]

theorem production_of_onlyVerdicts (h : OnlyVerdicts t u) : production u = production t := by
  simp only [production_eq_sum, liveStations_of_onlyVerdicts h, tableFigure_of_onlyVerdicts h]

theorem plantMethane_of_onlyVerdicts (h : OnlyVerdicts t u) : plantMethane u = plantMethane t := by
  simp only [plantMethane_eq_div, liveStations_of_onlyVerdicts h, tableFigure_of_onlyVerdicts h,
    production_of_onlyVerdicts h]

theorem storesCounted_of_onlyVerdicts (h : OnlyVerdicts t u) : storesCounted u = storesCounted t := by
  simp only [storesCounted, liveStations_of_onlyVerdicts h, tableFigure_of_onlyVerdicts h]

theorem holderOf_of_onlyVerdicts (h : OnlyVerdicts t u) : holderOf u = holderOf t := by
  have same (a : Address) : holderAt u a = holderAt t a := by
    simp only [holderAt, holderFill, storesCounted_of_onlyVerdicts h, tableFigure_of_onlyVerdicts h]
  rw [holderOf_eq_map_head?, holderOf_eq_map_head?, storesCounted_of_onlyVerdicts h, funext same]

theorem availableGas_of_onlyVerdicts (h : OnlyVerdicts t u) : availableGas u = availableGas t := by
  rw [availableGas, availableGas, production_of_onlyVerdicts h, holderOf_of_onlyVerdicts h]

end

/-! The available gas (R73). -/

/-- The allowance of an unknown holder is 0 (R72). -/
theorem availableGas_of_no_holder {table : List Entry} (unknown : holderOf table = none) :
    availableGas table = production table := by
  rw [availableGas, unknown, holderAllowance, Int.add_zero, Int.toNat_natCast]

theorem availableGas_of_fill_above {table : List Entry} {h : Holder} (known : holderOf table = some h)
    (above : h.low < h.fill) :
    availableGas table = production table + min h.discharge ((h.fill - h.low) * h.drawdown) := by
  rw [availableGas, known, holderAllowance, if_pos above, ← Int.natCast_add, Int.toNat_natCast]

theorem availableGas_of_fill_at_or_below {table : List Entry} {h : Holder} (known : holderOf table = some h)
    (at_or_below : h.fill ≤ h.low) :
    availableGas table = production table - (h.low - h.fill) * h.drawdown := by
  rw [availableGas, known, holderAllowance, if_neg (Nat.not_lt.mpr at_or_below), ← Int.sub_eq_add_neg,
    Int.toNat_sub]

/-- Settles O24: the mean at production 0 and above it, then R72's allowance with no store that counts, with the fill
above L, and with the fill at or below it. -/
theorem availableGas : Obligations.AvailableGas := by
  unfold Obligations.AvailableGas
  intro table producers weighted fill
  have mean : plantMethane table = weighted / production table := plantMethane_eq_div table
  refine ⟨production_eq_sum table, ?idle, fun _ => mean, ?no_store, ?stores⟩
  case idle =>
    intro idle
    rw [mean, idle, Nat.div_zero]
  case no_store =>
    exact fun none_counts => availableGas_of_no_holder (holderOf_of_no_store none_counts)
  case stores =>
    intro first rest counted low k discharge
    have known : holderOf table = some (holderAt table first) := holderOf_of_stores counted
    exact ⟨availableGas_of_fill_above known, availableGas_of_fill_at_or_below known⟩

end Sys2Proof.Gas
end

