-- ==== Sys2Proof/Proofs/GrantWalk.lean ====
section
/-! SUPPORT. The grant walk (R77 to R80): the fit and the grant of one entry, the walk as a fold over the queue, and
what a close whose trip set is empty takes from it. -/

namespace Sys2Proof.Grants

open Sys2Proof.Machine Sys2Proof.Safety Sys2Proof.Stations
open Sys2Proof.Gas hiding availableGas

/-! The fit (R78). -/

section
variable (gas cum : Nat) (q : QueueEntry)

theorem fitTier_le (t : Nat) : fitTier gas cum q t ≤ t := by
  induction t with
  | zero => exact Nat.le_refl 0
  | succ t ih =>
    rw [fitTier]
    split_ifs
    · exact Nat.le_refl _
    · exact Nat.le_succ_of_le ih

theorem fitTier_zero_or_fits (t : Nat) : fitTier gas cum q t = 0 ∨ cum + drawOf q (fitTier gas cum q t) ≤ gas := by
  induction t with
  | zero => exact .inl rfl
  | succ t ih =>
    rw [fitTier]
    split_ifs with fits
    · exact .inr fits
    · exact ih

theorem too_high_above_fitTier (t u : Nat) (above : fitTier gas cum q t < u) (u_le : u ≤ t) :
    gas < cum + drawOf q u := by
  induction t with
  | zero => omega
  | succ t ih =>
    rw [fitTier] at above
    split_ifs at above with fits
    · omega
    · rcases Nat.le_succ_iff.mp u_le with lower | rfl
      · exact ih above lower
      · exact Nat.lt_of_not_le fits

end

/-! The grant, its shortfall count, and what one entry of the walk leaves (R77, R79, R80). -/

/-- A grant below the one before is held for one close: the rows of R79 as one condition. -/
theorem grantAfter_eq_held_or_fit (q : QueueEntry) (fit : Nat) :
    grantAfter q fit =
      (if fit < q.granted ∧ q.shortfall = false then q.granted else fit,
        decide (fit < q.granted ∧ q.shortfall = false)) := by
  unfold grantAfter
  by_cases below : fit < q.granted
  · rw [if_neg (Nat.not_le.mpr below)]
    cases q.shortfall with
    | false => simp [below]
    | true => simp
  · rw [if_pos (Nat.not_lt.mp below)]
    simp [below]

theorem grantCut_eq_true_iff (q : QueueEntry) (fit : Nat) :
    grantCut q fit = true ↔ fit < q.granted ∧ q.shortfall = true := by
  rw [grantCut, Bool.and_eq_true, decide_eq_true_eq]

theorem verdictOfState_stateOfGrant (granted requested : Nat) :
    verdictOfState (stateOfGrant granted requested) =
      if granted = 0 then .deferred else if granted = requested then .granted else .partialGrant := by
  unfold stateOfGrant
  split_ifs
  · rfl
  · rfl
  · rfl

/-- The entry, the total and the verdict where the methane test fails (R77, R80). -/
theorem walkEntry_of_methane_short {methane : Nat} {q : QueueEntry} (short : methane < q.minMethane) (gas cum : Nat)
    (marked : Word16) :
    walkEntry methane gas marked cum q =
      ({ q with granted := 0, shortfall := false, state := .suppressed }, cum,
        if 0 < q.granted ∨ marked.getLsbD q.claimant.val = true then some .suppressed else none) :=
  if_pos short

/-- The entry, the total and the verdict where it passes, in terms of the fit (R79, R80). -/
theorem walkEntry_of_methane_enough {methane : Nat} {q : QueueEntry} (enough : q.minMethane ≤ methane) (gas cum : Nat)
    (marked : Word16) :
    walkEntry methane gas marked cum q =
      let fit := fitTier gas cum q q.requested
      let granted := if fit < q.granted ∧ q.shortfall = false then q.granted else fit
      ({ q with
          granted, shortfall := decide (fit < q.granted ∧ q.shortfall = false)
          state := stateOfGrant granted q.requested },
        cum + drawOf q granted,
        if fit < q.granted ∧ q.shortfall = true then some .cut
        else if marked.getLsbD q.claimant.val = true then
          some (if granted = 0 then .deferred else if granted = q.requested then .granted else .partialGrant)
        else none) := by
  rw [walkEntry, if_neg (Nat.not_lt.mpr enough)]
  simp only [grantAfter_eq_held_or_fit, grantCut_eq_true_iff, verdictOfState_stateOfGrant, holdsStation]

/-! The walk over a queue. -/

theorem drawOf_eq_of_draws {p q : QueueEntry} (same : p.draws = q.draws) (tier : Nat) :
    drawOf p tier = drawOf q tier := by
  cases tier with
  | zero => rfl
  | succ t => simp only [drawOf, same]

/-- The running total rises by the draw of the grant the entry leaves with; a suppressed one draws nothing. -/
theorem walkEntry_total (methane gas cum : Nat) (marked : Word16) (q : QueueEntry) :
    let step := walkEntry methane gas marked cum q
    step.2.1 = cum + drawOf step.1 step.1.granted := by
  rcases Nat.lt_or_ge methane q.minMethane with short | enough
  · rw [walkEntry_of_methane_short short]
    rfl
  · rw [walkEntry_of_methane_enough enough]
    exact congrArg (cum + ·) (drawOf_eq_of_draws rfl _)

theorem grantWalk_total (methane gas : Nat) (marked : Word16) (cum : Nat) (queue : List QueueEntry) :
    let walk := grantWalk methane gas marked cum queue
    walk.2.1 = cum + grantedDraw walk.1 := by
  induction queue generalizing cum with
  | nil => rfl
  | cons q rest ih =>
    simp only [grantWalk, grantedDraw, List.map_cons, List.sum_cons] at ih ⊢
    rw [ih, walkEntry_total, Nat.add_assoc]

/-- The pass after a walk: the walked entries at the tail of its queue, each verdict written. -/
def afterWalk (p : ClaimPass) (walk : List QueueEntry × Nat × List (Address × Verdict)) : ClaimPass :=
  { p with
    queue := p.queue ++ walk.1, table := writeVerdicts p.table walk.2.2
    written := walk.2.2.foldl (fun w v => withStation w v.1) p.written }

/-- The walk entry by entry, each verdict written as it falls, is the walk with all verdicts written at its end. -/
theorem foldl_walkStep_eq_afterWalk (methane gas : Nat) (marked : Word16) (queue : List QueueEntry) (cum : Nat)
    (p : ClaimPass) :
    let walk := grantWalk methane gas marked cum queue
    queue.foldl (walkStep methane gas marked) (cum, p) = (walk.2.1, afterWalk p walk) := by
  induction queue generalizing cum p with
  | nil => simp only [List.foldl_nil, grantWalk, afterWalk, List.append_nil, writeVerdicts]
  | cons q rest ih =>
    simp only [List.foldl_cons, walkStep, ih, grantWalk, Prod.mk.injEq, true_and]
    cases verdict : (walkEntry methane gas marked cum q).2.2 with
    | none => simp only [afterWalk, List.append_assoc, List.singleton_append]
    | some v => simp only [afterWalk, verdictWritten, List.append_assoc, List.singleton_append, writeVerdicts,
        List.foldl_cons, withVerdict, withEntry, withStation]

/-! The allocation stage and the close. -/

theorem allocationStage_trips (c : Committed) (marked written : Word16) :
    (allocationStage c marked written).state.trips = c.trips := by
  unfold allocationStage
  split_ifs
  · rfl
  · rfl

/-- The walk of the allocation stage (R77). -/
def walkOf (c : Committed) (marked : Word16) : List QueueEntry × Nat × List (Address × Verdict) :=
  grantWalk (plantMethane c.table) (availableGas c.table) marked 0 c.queue

theorem allocationStage_queue {c : Committed} (no_trip : c.trips = 0) (marked written : Word16) :
    (allocationStage c marked written).state.queue = (walkOf c marked).1 := by
  rw [allocationStage, if_neg (not_not.mpr no_trip)]
  rfl

theorem allocationStage_table {c : Committed} (no_trip : c.trips = 0) (marked written : Word16) :
    (allocationStage c marked written).state.table = writeVerdicts c.table (walkOf c marked).2.2 := by
  rw [allocationStage, if_neg (not_not.mpr no_trip)]
  rfl

theorem allocationStage_written {c : Committed} (no_trip : c.trips = 0) (marked written : Word16) :
    (allocationStage c marked written).written =
      (walkOf c marked).2.2.foldl (fun w v => withStation w v.1) written := by
  rw [allocationStage, if_neg (not_not.mpr no_trip)]
  rfl

/-- The committed state as the stages before the allocation leave it (R49). -/
def beforeAllocation (c : Committed) (journal : List Record) : Committed :=
  let table := presenceStage journal c.table
  let claims := claimStage journal table c.queue
  let duty := dutyStage journal c.table claims.table { duty := c.duty, offer := c.offer }
  { c with
    table := claims.table, queue := claims.queue, trips := tripStage journal claims.table c.trips
    duty := duty.duty, offer := duty.offer }

theorem closeState_eq_allocationStage (c : Committed) (journal : List Record) :
    let claims := claimStage journal (presenceStage journal c.table) c.queue
    closeState c journal = allocationStage (beforeAllocation c journal) claims.marked claims.written := rfl

theorem closeState_walks (c : Committed) (journal : List Record) :
    let r := closeState c journal
    let claims := claimStage journal (presenceStage journal c.table) c.queue
    let walked := claims.queue.foldl
      (walkStep (plantMethane r.state.table) (availableGas r.state.table) claims.marked)
      (0, { claims with queue := [] })
    r.state.trips = 0 →
      r.state.queue = walked.2.queue ∧ r.state.table = walked.2.table ∧ r.written = walked.2.written := by
  intro r claims walked no_trip
  have r_eq : r = allocationStage (beforeAllocation c journal) claims.marked claims.written :=
    closeState_eq_allocationStage c journal
  have verdicts : OnlyVerdicts claims.table r.state.table := by
    rw [r_eq]
    exact onlyVerdicts_allocationStage _ _ _
  have walked_eq :
      walked.2 = afterWalk { claims with queue := [] } (walkOf (beforeAllocation c journal) claims.marked) := by
    simp only [walked, plantMethane_of_onlyVerdicts verdicts, availableGas_of_onlyVerdicts verdicts,
      foldl_walkStep_eq_afterWalk]
    rfl
  have empty : (beforeAllocation c journal).trips = 0 := by rw [← no_trip, r_eq, allocationStage_trips]
  rw [walked_eq, r_eq]
  exact ⟨allocationStage_queue empty .., allocationStage_table empty .., allocationStage_written empty ..⟩

/-- Settles O25: the close as the fold of the walk, an entry that fails the methane test, and one that passes it, whose
fit is the one of fitTier. -/
theorem grantRule : Obligations.GrantRule := by
  unfold Obligations.GrantRule
  refine ⟨closeState_walks, fun methane gas cum marked q => ⟨?short, ?enough⟩⟩
  case short =>
    exact fun short => walkEntry_of_methane_short short gas cum marked
  case enough =>
    intro enough
    exact ⟨fitTier gas cum q q.requested, fitTier_le .., fitTier_zero_or_fits .., too_high_above_fitTier gas cum q _,
      walkEntry_of_methane_enough enough gas cum marked⟩

end Sys2Proof.Grants
end

