-- ==== Sys2Proof/Proofs/FlaringAndBurn.lean ====
section
/-! SUPPORT. What the allocation does behind the grant walk: the flaring flag (R82), the burn target (R83) and its
placement on the eligible flares (R84), each in terms of the committed state the close leaves. -/

namespace Sys2Proof.Burn

open Sys2Proof.Machine Sys2Proof.Safety Sys2Proof.Stations
open Sys2Proof.Gas hiding availableGas
open Sys2Proof.Grants hiding grantRule

/-! The flaring flag (R82). -/

theorem allocationStage_flaring_of_trip {c : Committed} (trip : c.trips ≠ 0) (marked written : Word16) :
    (allocationStage c marked written).state.flaring = c.flaring := by
  rw [allocationStage, if_pos trip]

/-- The walk's running total is the granted draw of the queue the stage leaves. -/
theorem walkOf_total {c : Committed} (no_trip : c.trips = 0) (marked written : Word16) :
    (walkOf c marked).2.1 = grantedDraw (allocationStage c marked written).state.queue := by
  rw [allocationStage_queue no_trip, walkOf, grantWalk_total, Nat.zero_add]

theorem allocationStage_flaring_of_no_trip {c : Committed} (no_trip : c.trips = 0) (marked written : Word16) :
    let after := (allocationStage c marked written).state
    after.flaring =
      flaringAfter (holderOf after.table) (production after.table) (grantedDraw after.queue) c.flaring := by
  intro after
  have verdicts : OnlyVerdicts c.table after.table := onlyVerdicts_allocationStage c marked written
  rw [holderOf_of_onlyVerdicts verdicts, production_of_onlyVerdicts verdicts, ← walkOf_total no_trip]
  simp only [after, allocationStage, if_neg (not_not.mpr no_trip)]
  rfl

theorem closeState_trips (c : Committed) (journal : List Record) :
    (closeState c journal).state.trips = (beforeAllocation c journal).trips := by
  rw [closeState_eq_allocationStage, allocationStage_trips]

theorem closeState_flaring_of_trip {c : Committed} {journal : List Record}
    (trip : (closeState c journal).state.trips ≠ 0) : (closeState c journal).state.flaring = c.flaring := by
  rw [closeState_trips] at trip
  exact allocationStage_flaring_of_trip trip ..

theorem closeState_flaring_of_no_trip {c : Committed} {journal : List Record}
    (no_trip : (closeState c journal).state.trips = 0) :
    let after := (closeState c journal).state
    after.flaring =
      flaringAfter (holderOf after.table) (production after.table) (grantedDraw after.queue) c.flaring := by
  rw [closeState_trips] at no_trip
  exact allocationStage_flaring_of_no_trip no_trip ..

/-- Settles O29: a trip close keeps the flag; otherwise R82's cases by the holder, and for a known one by its fill
against F. -/
theorem flaringFlag : Obligations.FlaringFlag := by
  unfold Obligations.FlaringFlag
  intro c journal after fill
  refine ⟨closeState_flaring_of_trip, ?known, ?unknown⟩
  case known =>
    intro no_trip first rest counted band
    have flag : after.flaring = if band ≤ fill then true else if fill + 5 < band then false else c.flaring := by
      rw [closeState_flaring_of_no_trip no_trip, holderOf_of_stores counted]
      rfl
    refine ⟨fun full => ?set, fun low => ?clear, fun above_clear below_set => ?kept⟩
    case set => rw [flag, if_pos full]
    case clear => rw [flag, if_neg (by omega), if_pos low]
    case kept => rw [flag, if_neg (by omega), if_neg (by omega)]
  case unknown =>
    intro no_trip none_counts
    rw [closeState_flaring_of_no_trip no_trip, holderOf_of_no_store none_counts]
    rfl

/-! The burn target (R83). -/

theorem burnTarget_of_trip {trips : Word16} (trip : trips ≠ 0) (table : List Entry) (flaring : Bool) (cum : Nat) :
    burnTarget table trips flaring cum = production table := if_pos trip

theorem burnTarget_of_no_trip {trips : Word16} (no_trip : trips = 0) (table : List Entry) (flaring : Bool) (cum : Nat) :
    let surplus := if flaring then availableGas table - cum else 0
    burnTarget table trips flaring cum =
      match storesCounted table with
      | first :: _ =>
        if tableFigure table first 4 ≤ holderFill table then ((eligibleFlares table).map (·.2)).sum else surplus
      | [] => surplus := by
  rw [burnTarget, if_neg (not_not.mpr no_trip)]
  cases counted : storesCounted table with
  | nil => rw [holderOf_of_no_store counted]
  | cons first rest =>
    rw [holderOf_of_stores counted]
    rfl

/-! The eligible flares (R84). -/

theorem eligible_eq_true_iff (e : Entry) :
    eligible e = true ↔ e.presence = .live ∧ e.role = some .flare ∧ 0 < burnCapacity e := by
  rw [eligible, decide_eq_true_eq]

theorem eligibleFlares_eq_map (table : List Entry) :
    eligibleFlares table =
      (addresses.filter fun a => eligible (entryOf table a)).map fun a => (a, burnCapacity (entryOf table a)) := by
  simp only [eligibleFlares, List.filter_map, List.map_map, Function.comp_def]

theorem eligibleFlares_addresses (table : List Entry) :
    (eligibleFlares table).map (·.1) = addresses.filter fun a => eligible (entryOf table a) := by
  simp only [eligibleFlares_eq_map, List.map_map, Function.comp_def, List.map_id']

theorem mem_addresses (a : Address) : a ∈ addresses := by
  revert a
  decide

theorem pairwise_addresses : addresses.Pairwise (· < ·) := by decide

theorem mem_eligibleFlares_iff (table : List Entry) (a : Address) :
    a ∈ (eligibleFlares table).map (·.1) ↔ (entryOf table a).presence = .live ∧
      (entryOf table a).role = some .flare ∧ 0 < burnCapacity (entryOf table a) := by
  rw [eligibleFlares_addresses, List.mem_filter, eligible_eq_true_iff]
  exact and_iff_right (mem_addresses a)

theorem pairwise_eligibleFlares (table : List Entry) : ((eligibleFlares table).map (·.1)).Pairwise (· < ·) := by
  rw [eligibleFlares_addresses]
  exact pairwise_addresses.filter _

theorem capacity_of_mem_eligibleFlares {table : List Entry} {p : Address × Nat} (mem : p ∈ eligibleFlares table) :
    p.2 = burnCapacity (entryOf table p.1) := by
  rw [eligibleFlares_eq_map, List.mem_map] at mem
  obtain ⟨a, -, rfl⟩ := mem
  rfl

/-! The placement (R84). -/

theorem placeBurn_addresses (target : Nat) (order : List (Address × Nat)) :
    (placeBurn target order).1.map (·.1) = order.map (·.1) := by
  induction order generalizing target with
  | nil => rfl
  | cons p more ih => simp only [placeBurn, List.map_cons, ih]

theorem placeBurn_unburnt (target : Nat) (order : List (Address × Nat)) :
    (placeBurn target order).2 = target - ((placeBurn target order).1.map (·.2)).sum := by
  induction order generalizing target with
  | nil => rfl
  | cons p more ih => rw [placeBurn, ih, List.map_cons, List.sum_cons, Nat.sub_sub]

/-- What remains for a flare is the target less what those ahead of it took. -/
theorem placeBurn_amount (target : Nat) (order : List (Address × Nat)) (k : Nat) (k_lt : k < order.length) :
    let amounts := (placeBurn target order).1.map (·.2)
    amounts.getD k 0 = min (target - (amounts.take k).sum) ((order.map (·.2)).getD k 0) := by
  induction order generalizing target k with
  | nil => exact absurd k_lt (Nat.not_lt_zero k)
  | cons p more ih =>
    cases k with
    | zero => rfl
    | succ k =>
      simp only [placeBurn, List.map_cons, List.getD_cons_succ, List.take_succ_cons, List.sum_cons, ← Nat.sub_sub]
      exact ih _ k (Nat.lt_of_succ_lt_succ k_lt)

/-- The placement of the stage is that of the state it leaves, with the granted draw of its queue; at a trip the target
does not depend on the draw. -/
theorem allocationStage_placement (c : Committed) (marked written : Word16) :
    let r := allocationStage c marked written
    (r.placed, r.state.unburnt) = placement r.state (grantedDraw r.state.queue) := by
  intro r
  by_cases trip : c.trips = 0
  · rw [← walkOf_total trip]
    simp only [r, allocationStage, if_neg (not_not.mpr trip)]
    rfl
  · simp only [r, allocationStage, if_pos trip, placement, burnTarget_of_trip trip]

theorem closeState_placement (c : Committed) (journal : List Record) :
    let r := closeState c journal
    (r.placed, r.state.unburnt) = placement r.state (grantedDraw r.state.queue) :=
  allocationStage_placement ..

/-- Settles O30: the target by R83's cases, then the placement of the close as that target placed on the flares in R84's
order. -/
theorem burnPlacement : Obligations.BurnPlacement := by
  unfold Obligations.BurnPlacement
  intro c journal r flares order surplus target
  have target_eq :
      burnTarget r.state.table r.state.trips r.state.flaring (grantedDraw r.state.queue) = target := by
    by_cases no_trip : r.state.trips = 0
    · rw [burnTarget_of_no_trip no_trip]
      exact (if_neg (not_not.mpr no_trip)).symm
    · rw [burnTarget_of_trip no_trip]
      exact (if_pos no_trip).symm
  have placed_eq : (r.placed, r.state.unburnt) = placeBurn target order := by
    rw [← target_eq]
    exact closeState_placement c journal
  obtain ⟨placed, unburnt⟩ := Prod.mk.inj placed_eq
  rw [placed, unburnt]
  exact ⟨mem_eligibleFlares_iff _, pairwise_eligibleFlares _, fun _ => capacity_of_mem_eligibleFlares,
    placeBurn_addresses target order, placeBurn_amount target order, placeBurn_unburnt target order⟩

end Sys2Proof.Burn
end

section
/-! SUPPORT. Every command keeps the laws of every state: the laws but for the bound on failed attempts through `Kept`, and
that bound by the step that ends in `settle` or leaves the attempt count alone. -/

namespace Sys2Proof.Steps

open Sys2Proof.Machine Sys2Proof.Safety Sys2Proof.Laws

/-! The laws as `Kept` and the bound on failed attempts. -/

theorem lawful_iff (s : State) : lawful s ↔ Kept s ∧ s.ttu.attempts < 3 := by
  constructor
  · rintro ⟨⟨queue, journal, table, claims, attempts, history, esd, trip, permit, aux, image, written⟩, stack, link,
      one, round, timers, cap⟩
    exact ⟨⟨queue, journal, table, claims, history, ⟨esd, trip, permit, aux⟩, ⟨image, written⟩, stack, link, one,
      round, timers, cap⟩, attempts⟩
  · rintro ⟨kept, attempts⟩
    exact ⟨kept.withinCapacity attempts, kept.stack, kept.link, kept.one, kept.round, kept.timers, kept.cap⟩

theorem lawful_settle {s : State} (kept : Kept s) : lawful (settle s) :=
  (lawful_iff _).mpr ⟨kept_settle kept, attempts_settle s⟩

/-- A stage that keeps the laws and leaves the attempt count alone. -/
theorem lawful_of_kept {s t : State} (h : lawful s) (kept : Kept s → Kept t)
    (same : t.ttu.attempts = s.ttu.attempts) : lawful t := by
  rw [lawful_iff] at h ⊢
  exact ⟨kept h.1, same ▸ h.2⟩

theorem kept_of_lawful {s : State} (h : lawful s) : Kept s := ((lawful_iff s).mp h).1

/-- What a command answers has a property. -/
def Answers (P : State → Prop) (o : Answer) : Prop := ∀ t, o = .next t → P t

theorem answers_next {P : State → Prop} {u : State} (h : P u) : Answers P (.next u) := by
  rintro t ⟨⟩
  exact h

/-! Blocks replaced. -/

theorem lawful_setPp {s : State} (h : lawful s) (x : PanelPort) (image : x.image = s.pp.image)
    (written : x.written = s.pp.written) : lawful (s.setPp x) :=
  lawful_of_kept h (fun k => { k with image := by rw [setPp_pp, image, written]; exact k.image }) rfl

theorem lawful_setEiu {s : State} (h : lawful s) (x : EventInputUnit)
    (lost : x.esd.lost ≤ 15 ∧ x.trip.lost ≤ 15 ∧ x.permit.lost ≤ 15 ∧ x.aux.lost ≤ 15) : lawful (s.setEiu x) :=
  lawful_of_kept h (fun k => { k with lost := lost }) rfl

theorem lawful_setSmp {s : State} (h : lawful s) (x : Sampler) (history : x.history.length ≤ 8) :
    lawful (s.setSmp x) :=
  lawful_of_kept h (fun k => { k with history := history }) rfl

theorem lawful_raiseIf {s : State} (h : lawful s) (c : Bool) (e : EventFlag) : lawful (raiseIf c e s) :=
  lawful_of_kept h (fun k => k.raiseIf c e) (by rw [raiseIf_ttu])

theorem lawful_raiseEvent {s : State} (h : lawful s) (e : EventFlag) : lawful (raiseEvent e s) := lawful_raiseIf h true e

theorem lawful_advanceTo {s : State} (h : lawful s) (due : Nat) : lawful (advanceTo due s) :=
  lawful_of_kept h (fun k => kept_advanceTo k due) rfl

theorem lawful_setPending {s : State} (h : lawful s) (rest : List Instr) : lawful (s.setPending rest) :=
  lawful_of_kept h (fun k => { k with }) rfl

theorem lawful_tick {s : State} (h : lawful s) : lawful (tick s) := lawful_of_kept h (fun k => { k with }) rfl

/-! Hardware reset (O2). -/

theorem stackLaw_resetStack : stackLaw resetStack.stack := stackLaw_startHold

theorem lawful_atReset (address : Address) (role : Role) (pins : InputLevels) (exchange : Exchange) (freeCount : Nat)
    (pending : List Instr) : lawful (State.atReset address role pins exchange freeCount pending) := by
  refine (lawful_iff _).mpr ⟨?_, Nat.zero_lt_succ _⟩
  exact
    { queue := Nat.zero_le _
      journal := Nat.zero_le _
      table := rfl
      claims := Nat.zero_le _
      history := Nat.zero_le _
      lost := ⟨Nat.zero_le _, Nat.zero_le _, Nat.zero_le _, Nat.zero_le _⟩
      image := ⟨rfl, rfl⟩
      stack := stackLaw_startHold
      link := linkLaw_emptied rfl rfl
      one := oneEach_emptied rfl
      round := ⟨by rintro (e | e | e) <;> exact absurd e (by simp [State.atReset, resetEngine, resetTransfer, asking]),
        fun e => absurd e Bool.false_ne_true⟩
      timers := ⟨fun _ => rfl, fun e => absurd rfl e,
        ⟨fun e => absurd e (by simp [State.atReset, resetEngine]), fun e => absurd rfl e⟩⟩
      cap := fun e => absurd e (by simp [State.atReset, resetEngine]) }

/-! The link. -/

theorem silenceAtFrameStart_ttu (s : State) : (silenceAtFrameStart s).ttu = s.ttu := by
  unfold silenceAtFrameStart
  split <;> rfl

theorem lawful_frameStart {s : State} (h : lawful s) (slots : Nat) : Answers lawful (execFrameStart slots s) := by
  unfold execFrameStart
  cases start : s.startable with
  | none => exact answers_next h
  | some found =>
    obtain ⟨q, since⟩ := found
    obtain ⟨offLine, head, -, -⟩ := Enabling.startable_eq_some start
    dsimp only
    split
    · refine answers_next (lawful_of_kept (lawful_advanceTo h (since + accessSlot * slots)) (fun k => ?_) ?_)
      · exact kept_startFrame k (rest := s.lc.queue.tail) (List.eq_cons_of_mem_head? head) offLine
      · rw [startFrame, silenceAtFrameStart_ttu, setLc_ttu]
    · exact answers_next h

theorem lawful_collision {s : State} (h : lawful s) : Answers lawful (execCollision s) := by
  unfold execCollision
  split
  · next l q rest onLine queued =>
    have collided := kept_collided (kept_of_lawful h) onLine queued
    dsimp only
    split
    · exact answers_next (lawful_settle (kept_discardHead collided rfl rfl))
    · exact answers_next (lawful_of_kept h (fun _ => collided) rfl)
  · exact answers_next h

theorem lawful_frameSent {s : State} (h : lawful s) : Answers lawful (execFrameSent s) := by
  unfold execFrameSent
  split
  · next l q rest onLine queued =>
    refine answers_next ((lawful_iff _).mpr ⟨?_, attempts_settle _⟩)
    exact kept_frameSent (kept_advanceTo (kept_of_lawful h) _) l queued (by rw [advanceTo_lc, onLine]; rfl)
  · exact answers_next h

theorem lawful_frameEnd {s : State} (h : lawful s) (chars : List Byte) (framingError : Bool) :
    Answers lawful (execFrameEnd chars framingError s) := by
  unfold execFrameEnd
  split
  · exact answers_next h
  · exact answers_next (lawful_settle (kept_receiveFrame (kept_lineQuiet (kept_of_lawful h) _) _ _ _))

theorem lawful_startBitDetected {s : State} (h : lawful s) : Answers lawful (execStartBitDetected s) := by
  refine answers_next ?_
  split
  · exact h
  · exact lawful_of_kept h (fun k => kept_silenceAtFrameStart { k with }) (by rw [silenceAtFrameStart_ttu, setLc_ttu])

/-! Timers and the profile window. -/

theorem timerDue_eq_some {t : Timer} {duration due : Nat} (h : timerDue t duration = some due) :
    ∃ since, t = .running since ∧ due = since + duration := by
  cases t with
  | stopped | held => simp [timerDue] at h
  | running since => exact ⟨since, rfl, (Option.some.inj h).symm⟩

theorem lawful_closeWindow {s : State} (h : lawful s) (profile : s.ae.join = .profile) : lawful (closeWindow s) :=
  lawful_of_kept h (fun k => kept_closeWindow k profile) rfl

theorem lawful_profileWindowExpiry {s : State} (h : lawful s) : Answers lawful (execProfileWindowExpiry s) := by
  refine answers_next ?_
  split
  · next opened =>
    exact lawful_closeWindow (lawful_advanceTo h _) ((Enabling.loaderOpen_eq_true_iff s).mp opened).1
  · exact h

theorem kept_restartRoundTimer {s : State} (h : Kept s) (rounds : s.ae.join ≠ .profile) : Kept (restartRoundTimer s) :=
  { h with timers := ⟨fun profile => absurd profile rounds, fun _ => rfl, h.timers.2.2⟩ }

theorem lawful_roundTimerExpiry {s : State} (h : lawful s) : Answers lawful (execRoundTimerExpiry s) := by
  unfold execRoundTimerExpiry
  split
  · exact answers_next h
  · next due isDue =>
    obtain ⟨since, running, -⟩ := timerDue_eq_some isDue
    have rounds : s.ae.join ≠ .profile := fun profile => by
      simp [(kept_of_lawful h).timers.1 profile] at running
    have restarted := kept_restartRoundTimer (kept_advanceTo (kept_of_lawful h) due) rounds
    refine answers_next (lawful_settle (Kept.stackWork ?_ (stackWork_expiryNotice _)))
    split
    · exact restarted.queueWork (queueWork_offerPlain _ _)
    · exact restarted

theorem lawful_silenceTimerExpiry {s : State} (h : lawful s) : Answers lawful (execSilenceTimerExpiry s) := by
  unfold execSilenceTimerExpiry
  split
  · exact answers_next h
  · refine answers_next ?_
    split
    · exact (lawful_iff _).mpr ⟨kept_performFounding (kept_advanceTo (kept_of_lawful h) _), attempts_performFounding _⟩
    · exact h

theorem lawful_answerTimerExpiry {s : State} (h : lawful s) : Answers lawful (execAnswerTimerExpiry s) := by
  unfold execAnswerTimerExpiry
  split
  · exact answers_next h
  · exact answers_next (lawful_settle ((kept_advanceTo (kept_of_lawful h) _).queueWork (queueWork_attemptFail _)))

theorem lawful_stallTimerExpiry {s : State} (h : lawful s) : Answers lawful (execStallTimerExpiry s) := by
  unfold execStallTimerExpiry
  split
  · exact answers_next h
  · exact answers_next (lawful_settle ((kept_advanceTo (kept_of_lawful h) _).queueWork (queueWork_attemptFail _)))

/-! Event inputs. -/

theorem latchEdge_lost_le {i : EventInput} (h : i.lost ≤ 15) : (latchEdge i).lost ≤ 15 := by
  unfold latchEdge lostUp lostLimit
  split
  · dsimp only
    split <;> omega
  · exact h

theorem edgeTaken_lost_le {i : EventInput} (h : i.lost ≤ 15) (counts level : Bool) :
    (edgeTaken counts level i).lost ≤ 15 := by
  unfold edgeTaken
  split
  · exact latchEdge_lost_le h
  · exact h

theorem countedTaken_lost_le {i : EventInput} (h : i.lost ≤ 15) (level : Bool) : (countedTaken level i).lost ≤ 15 := by
  unfold countedTaken
  split
  · exact h
  · exact latchEdge_lost_le h

theorem lawful_countAux {s : State} (h : lawful s) (level : Bool) : lawful (countAux level s) := by
  obtain ⟨esd, trip, permit, aux⟩ := (kept_of_lawful h).lost
  refine lawful_raiseIf (lawful_setEiu h _ ?_) _ _
  exact ⟨esd, trip, permit, countedTaken_lost_le aux level⟩

theorem lawful_withAuxPin {s : State} (h : lawful s) (level : Bool) (wait : Timer) :
    lawful (withAuxPin level wait s) := lawful_setEiu h _ (kept_of_lawful h).lost

theorem lawful_inputEdge {s : State} (h : lawful s) (input : InputPin) (level : Bool) :
    Answers lawful (execInputEdge input level s) := by
  obtain ⟨esd, trip, permit, aux⟩ := (kept_of_lawful h).lost
  cases input with
  | esd =>
    refine answers_next (lawful_raiseIf (lawful_setEiu h _ ?_) _ _)
    exact ⟨edgeTaken_lost_le esd _ _, trip, permit, aux⟩
  | trip =>
    refine answers_next (lawful_raiseIf (lawful_setEiu h _ ?_) _ _)
    exact ⟨esd, edgeTaken_lost_le trip _ _, permit, aux⟩
  | permit =>
    refine answers_next (lawful_raiseIf (lawful_setEiu h _ ?_) _ _)
    exact ⟨esd, trip, edgeTaken_lost_le permit _ _, aux⟩
  | aux =>
    refine answers_next ?_
    unfold auxPin
    split
    · exact h
    · split
      · split
        · exact lawful_withAuxPin h _ _
        · exact lawful_countAux (lawful_withAuxPin h _ _) _
      · exact lawful_withAuxPin h _ _

theorem lawful_filterEnded {s : State} (h : lawful s) : lawful (filterEnded s) :=
  lawful_countAux (lawful_setEiu h { s.eiu with wait := .stopped } (kept_of_lawful h).lost) _

theorem lawful_in3DebounceExpiry {s : State} (h : lawful s) : Answers lawful (execIn3DebounceExpiry s) := by
  unfold execIn3DebounceExpiry
  split
  · exact answers_next h
  · refine answers_next ?_
    split
    · exact h
    · exact lawful_filterEnded (lawful_advanceTo h _)

theorem lawful_flameProvingExpiry {s : State} (h : lawful s) : Answers lawful (execFlameProvingExpiry s) := by
  unfold execFlameProvingExpiry
  split
  · exact answers_next h
  · refine answers_next ?_
    split
    · exact lawful_filterEnded (lawful_advanceTo h _)
    · exact h

theorem queueWork_offerOrHold (body : FrameBody) (held : HeldFrame) (s : State) :
    QueueWork s (offerOrHold body held s) := by
  unfold offerOrHold
  dsimp only
  split
  · exact queueWork_offerFrame _ _
  · exact (queueWork_offerFrame _ _).trans (queueWork_holdFrame _ _)

theorem kept_setEiu {s : State} (h : Kept s) (x : EventInputUnit)
    (lost : x.esd.lost = s.eiu.esd.lost ∧ x.trip.lost = s.eiu.trip.lost ∧ x.permit.lost = s.eiu.permit.lost ∧
      x.aux.lost = s.eiu.aux.lost) : Kept (s.setEiu x) := by
  obtain ⟨esd, trip, permit, aux⟩ := lost
  exact { h with lost := by rw [setEiu_eiu, esd, trip, permit, aux]; exact h.lost }

theorem lawful_esdEvent {s : State} (h : lawful s) : Answers lawful (execEsdEvent s) := by
  unfold execEsdEvent
  split
  · refine answers_next (lawful_settle ?_)
    unfold esdActions
    refine kept_setEiu (Kept.queueWork ?_ (queueWork_offerOrHold _ _ _)) _ ⟨rfl, rfl, rfl, rfl⟩
    have taken := kept_setEiu (kept_of_lawful h) { s.eiu with esd := takenInput s.eiu.esd } ⟨rfl, rfl, rfl, rfl⟩
    split
    · exact taken
    · exact taken.stackWork (stackWork_devicePush _ _)
  · exact answers_next h

/-- A device's push or withdrawal leaves the attempt count. -/
theorem lawful_stackWork {s t : State} (h : lawful s) (w : StackWork s t) : lawful t :=
  lawful_of_kept h (fun k => k.stackWork w) (by rw [w.ttu])

/-- An ordinary frame offered displaces nothing, so no attempt fails. -/
theorem lawful_offerOrdinary {s : State} (h : lawful s) (q : QueuedFrame) (ordinary : frameClass q.body = .ordinary) :
    lawful (offerFrame q s).2 :=
  lawful_of_kept h (fun k => k.queueWork (queueWork_offerFrame q s)) (by rw [(offerFrame_ordinary q s ordinary).1])

theorem lawful_tripEvent {s : State} (h : lawful s) : Answers lawful (execTripEvent s) := by
  unfold execTripEvent
  split
  · refine answers_next ?_
    have taken : lawful (s.setEiu { s.eiu with trip := takenInput s.eiu.trip }) := lawful_setEiu h _ (kept_of_lawful h).lost
    have pushed := lawful_stackWork taken (stackWork_devicePush .tripIsolate _)
    unfold tripActions
    dsimp only
    split
    · exact lawful_offerOrdinary pushed _ rfl
    · exact pushed
  · exact answers_next h

theorem kept_clearOwnTrip {s : State} (h : Kept s) : Kept (clearOwnTrip s) := by
  unfold clearOwnTrip
  refine kept_setEiu ?_ _ ⟨rfl, rfl, rfl, rfl⟩
  split
  · exact h.queueWork (queueWork_offerOrHold _ _ _)
  · exact h

theorem kept_dropHeldTrip {s : State} (h : Kept s) : Kept (dropHeldTrip s) :=
  h.queueWork (queueWork_setAe _ s rfl)

theorem kept_startHoldFreed {s : State} (h : Kept s) (may : Bool) :
    Kept (if may = true then deviceWithdraw .startHold s else s) := by
  split
  · exact h.stackWork (stackWork_deviceWithdraw _ _)
  · exact h

theorem kept_permitActions {s : State} (h : Kept s) : Kept (permitActions s) := by
  have withdrawn : Kept (deviceWithdraw .tripIsolate (deviceWithdraw .esdIsolate s)) :=
    (h.stackWork (stackWork_deviceWithdraw _ _)).stackWork (stackWork_deviceWithdraw _ _)
  have cleared := kept_clearOwnTrip (kept_dropHeldTrip withdrawn)
  have freed := kept_startHoldFreed cleared s.mayRelease
  unfold permitActions
  dsimp only
  generalize (if s.mayRelease = true then deviceWithdraw .startHold _ else _) = u at freed ⊢
  split
  · exact freed.queueWork (queueWork_offerFrame _ _)
  · exact freed

theorem lawful_permitEvent {s : State} (h : lawful s) : Answers lawful (execPermitEvent s) := by
  unfold execPermitEvent
  split
  · exact answers_next (lawful_settle (kept_permitActions (kept_setEiu (kept_of_lawful h) _ ⟨rfl, rfl, rfl, rfl⟩)))
  · exact answers_next h

theorem lawful_auxEvent {s : State} (h : lawful s) : Answers lawful (execAuxEvent s) := by
  unfold execAuxEvent
  split
  · refine answers_next (lawful_raiseEvent ?_ _)
    split
    · exact lawful_setEiu (lawful_setEiu h _ (kept_of_lawful h).lost) _ (kept_of_lawful h).lost
    · exact lawful_setEiu h _ (kept_of_lawful h).lost
  · exact answers_next h

/-! Valve and Sampler. -/

theorem lawful_valvePeriodStart {s : State} (h : lawful s) : Answers lawful (execValvePeriodStart s) :=
  answers_next (lawful_of_kept h (fun k => { k with }) rfl)

theorem lawful_scanStart {s : State} (h : lawful s) : Answers lawful (execScanStart s) := by
  unfold execScanStart
  split
  · exact answers_next (lawful_setSmp (lawful_advanceTo h _) _ (kept_of_lawful h).history)
  · exact answers_next h

theorem length_enterScan_le {history : List ScanCodes} (h : history.length ≤ 8) (codes : ScanCodes) :
    (enterScan history codes).length ≤ 8 := by
  unfold enterScan historyLength
  rw [List.length_append, List.length_singleton]
  split
  · omega
  · rw [List.length_tail]
    omega

theorem lawful_scanComplete {s : State} (h : lawful s) (codes : ScanCodes) :
    Answers lawful (execScanComplete codes s) := by
  unfold execScanComplete
  split
  · exact answers_next h
  · exact answers_next (lawful_raiseIf (lawful_setSmp (lawful_advanceTo h _) _
      (length_enterScan_le (kept_of_lawful h).history codes)) _ _)

/-! The panel commands. -/

theorem lawful_stageReply {s : State} (h : lawful s) (reply : Word32) : lawful (stageReply reply s) :=
  lawful_setPp h _ rfl rfl

theorem lawful_emptyHolding {s : State} (h : lawful s) : lawful (emptyHolding s) := lawful_setPp h _ rfl rfl

theorem lawful_commandNop {s : State} (h : lawful s) (w : Word32) : lawful (commandNop w s) := by
  unfold commandNop
  split <;> exact lawful_stageReply h _

theorem lawful_statusChannel {s : State} (h : lawful s) (reading : Option Word16) :
    lawful (statusChannel reading s) := by
  cases reading with
  | some v => exact lawful_stageReply h _
  | none => exact lawful_stageReply (lawful_of_kept h (fun k => { k with }) rfl : lawful (s.setFreeCount _)) _

theorem lawful_commandStatus {s : State} (h : lawful s) (w : Word32) : lawful (commandStatus w s) := by
  unfold commandStatus
  split
  case h_2 | h_3 | h_4 | h_5 => exact lawful_statusChannel h _
  all_goals exact lawful_stageReply h _

theorem lawful_commandWindow {s : State} (h : lawful s) (w : Word32) : lawful (commandWindow w s) := by
  unfold commandWindow
  split
  · exact lawful_stageReply (lawful_setPp h { s.pp with windowIndex := _, part := 0 } rfl rfl) _
  · exact lawful_stageReply h _

theorem lawful_commandRead {s : State} (h : lawful s) (w : Word32) : lawful (commandRead w s) :=
  lawful_stageReply (lawful_setPp h { s.pp with part := s.pp.part + 1 } rfl rfl) _

theorem lawful_commandAck {s : State} (h : lawful s) (w : Word32) : lawful (commandAck w s) :=
  lawful_stageReply (lawful_setPp h { s.pp with flags := acknowledged s.pp.flags (argumentWord12 w) } rfl rfl) _

theorem lawful_commandMask {s : State} (h : lawful s) (w : Word32) : lawful (commandMask w s) :=
  lawful_stageReply (lawful_setPp h { s.pp with masks := argumentWord12 w } rfl rfl) _

theorem lawful_passDemand {s : State} (h : lawful s) (tier : Nat) : lawful (passDemand tier s) := by
  have tiered : lawful (s.setAe { s.ae with lastTier := tier }) := lawful_of_kept h (fun k => { k with }) rfl
  unfold passDemand
  dsimp only
  split
  · refine lawful_stageReply (lawful_of_kept (lawful_offerOrdinary tiered _ rfl) (fun k => ?_) rfl) _
    exact k.queueWork (queueWork_setAe _ _ rfl)
  · exact lawful_stageReply (lawful_offerOrdinary tiered _ rfl) _

theorem lawful_commandDemand {s : State} (h : lawful s) (w : Word32) : lawful (commandDemand w s) := by
  unfold commandDemand
  split_ifs
  case neg => exact lawful_passDemand h _
  all_goals exact lawful_stageReply h _

theorem panelKind_of_pushKindOfCode {n : Nat} {kind : OverrideKind} (h : pushKindOfCode n = some kind) :
    panelKind kind = true := by
  unfold pushKindOfCode at h
  split at h <;> cases h <;> rfl

theorem lawful_placePanel {s : State} (h : lawful s) {kind : OverrideKind} (panel : panelKind kind = true)
    (v : Word16) : lawful (placePanel kind v s) := by
  have placed := lawful_stackWork h (stackWork_placeOverride kind (pushValue kind v) s (.inl panel))
  unfold placePanel
  dsimp only
  split <;> exact lawful_stageReply placed _

theorem lawful_commandPush {s : State} (h : lawful s) (w : Word32) : lawful (commandPush w s) := by
  unfold commandPush
  split
  · exact lawful_stageReply h _
  · next kind code =>
    split
    · exact lawful_stageReply h _
    · exact lawful_placePanel h (panelKind_of_pushKindOfCode code) _

theorem lawful_commandPop {s : State} (h : lawful s) (w : Word32) : lawful (commandPop w s) := by
  unfold commandPop
  split
  · exact lawful_stageReply h _
  · exact lawful_stageReply (lawful_stackWork h (stackWork_withStack s _ (stackLaw_withdrawn _))) _

theorem lawful_passHandover {s : State} (h : lawful s) (action : DutyAction) : lawful (passHandover action s) := by
  unfold passHandover
  dsimp only
  split <;> exact lawful_stageReply (lawful_offerOrdinary h _ rfl) _

theorem lawful_commandHandover {s : State} (h : lawful s) (w : Word32) : lawful (commandHandover w s) := by
  unfold commandHandover
  split_ifs
  · exact lawful_stageReply h _
  · exact lawful_stageReply h _
  · split
    · exact lawful_passHandover h _
    · exact lawful_passHandover h _
    · exact lawful_stageReply h _

theorem kept_stageReply {s : State} (h : Kept s) (reply : Word32) : Kept (stageReply reply s) := { h with }

theorem lawful_commandTripClear {s : State} (h : lawful s) (w : Word32) : lawful (commandTripClear w s) := by
  unfold commandTripClear
  split
  · exact lawful_stageReply h _
  · split
    · exact lawful_stageReply h _
    · refine lawful_settle ?_
      unfold passTripClear
      dsimp only
      split <;> exact kept_stageReply ((kept_of_lawful h).queueWork (queueWork_offerFrame _ _)) _

theorem lawful_commandRelease {s : State} (h : lawful s) (w : Word32) : lawful (commandRelease w s) := by
  unfold commandRelease
  split
  · exact lawful_stageReply (lawful_stackWork h (stackWork_deviceWithdraw _ _)) _
  · exact lawful_stageReply h _

theorem lawful_commandRestart {s : State} (h : lawful s) (w : Word32) : lawful (commandRestart w s) := by
  unfold commandRestart
  split
  · exact lawful_stageReply h _
  · exact (lawful_iff _).mpr ⟨kept_performRestart (kept_of_lawful h) _, Nat.zero_lt_succ _⟩

theorem lawful_storeWord {s : State} (h : lawful s) (profile : s.ae.join = .profile) (index : Nat) (v : Word16) :
    lawful (storeWord index v s) := by
  have stored : lawful
      (s.setPp { s.pp with image := s.pp.image.set index v, written := s.pp.written.set index true }) :=
    lawful_of_kept h (fun k => { k with image := by simpa using k.image }) rfl
  unfold storeWord
  dsimp only
  split
  · exact lawful_closeWindow stored profile
  · exact stored

theorem lawful_commandProfileWord {s : State} (h : lawful s) (w : Word32) : lawful (commandProfileWord w s) := by
  unfold commandProfileWord
  split_ifs with closed accepted
  · exact lawful_stageReply h _
  · have opened := (Enabling.loaderOpen_eq_true_iff s).mp (Bool.not_eq_false _ ▸ closed)
    exact lawful_stageReply (lawful_storeWord h opened.1 _ _) _
  · exact lawful_stageReply h _

theorem lawful_commandProfileDone {s : State} (h : lawful s) (w : Word32) : lawful (commandProfileDone w s) := by
  unfold commandProfileDone
  split
  · next opened =>
    exact lawful_stageReply (lawful_closeWindow h ((Enabling.loaderOpen_eq_true_iff s).mp opened).1) _
  · exact lawful_stageReply h _

theorem lawful_takeHeld {s : State} (h : lawful s) (code : Nat) (command : Word32 → State → State)
    (keeps : ∀ w u, lawful u → lawful (command w u)) : Answers lawful (.next (takeHeld code command s)) := by
  refine answers_next ?_
  unfold takeHeld
  split
  · exact h
  · exact keeps _ _ (lawful_emptyHolding h)

theorem lawful_performCommand {s : State} (h : lawful s) (w : Word32) : lawful (performCommand w s) := by
  unfold performCommand
  split
  · exact lawful_commandNop h w
  · exact lawful_commandStatus h w
  · exact lawful_stageReply h _
  · exact lawful_commandWindow h w
  · exact lawful_commandRead h w
  · exact lawful_stageReply h _
  · exact lawful_commandAck h w
  · exact lawful_commandMask h w
  · exact lawful_commandDemand h w
  · exact lawful_commandPush h w
  · exact lawful_commandPop h w
  · exact lawful_commandHandover h w
  · exact lawful_commandTripClear h w
  · exact lawful_commandRelease h w
  · exact lawful_commandRestart h w
  · exact lawful_commandProfileWord h w
  · exact lawful_commandProfileDone h w
  · exact lawful_stageReply h _

theorem lawful_illegalCommandCode {s : State} (h : lawful s) : Answers lawful (execIllegalCommandCode s) := by
  unfold execIllegalCommandCode
  split
  · exact answers_next h
  · exact answers_next (lawful_stageReply (lawful_emptyHolding h) _)

/-! The exchanges. -/

theorem lawful_exchangeStart {s : State} (h : lawful s) : Answers lawful (execExchangeStart s) := by
  refine answers_next ?_
  split
  · exact lawful_setPp h _ rfl rfl
  all_goals exact h

theorem lawful_stageOutcome {s : State} (h : lawful s) (o : Word32) : lawful (stageOutcome o s) := by
  unfold stageOutcome
  split <;> exact lawful_setPp h _ rfl rfl

theorem lawful_overrun {s : State} (h : lawful s) : lawful (overrun s) := lawful_setPp h _ rfl rfl

theorem lawful_performCancel {s : State} (h : lawful s) : lawful (performCancel s) := by
  unfold performCancel
  split
  · exact lawful_overrun h
  · exact lawful_stageOutcome (lawful_emptyHolding h) _
  · exact lawful_stageOutcome h _

theorem lawful_handlerTakes {s : State} (h : lawful s) : lawful (handlerTakes s) := by
  unfold handlerTakes
  split
  · exact h
  · exact lawful_performCommand (lawful_emptyHolding h) _

theorem lawful_arrive {s : State} (h : lawful s) (w : Word32) : lawful (arrive w s) := by
  unfold arrive
  split
  · exact lawful_setPp h _ rfl rfl
  · exact lawful_overrun h

theorem lawful_takeCancel {s : State} (h : lawful s) (pending isReply first : Bool) :
    lawful (takeCancel pending isReply first s) := by
  unfold takeCancel
  split_ifs
  · exact lawful_overrun h
  · exact lawful_performCancel h
  · exact lawful_performCancel (lawful_handlerTakes h)

theorem lawful_takeWord {s : State} (h : lawful s) (w : Word32) (first : Bool) : lawful (takeWord w first s) := by
  unfold takeWord
  split
  · exact lawful_handlerTakes h
  · exact lawful_arrive (lawful_handlerTakes h) w

theorem lawful_goodExchange {s : State} (h : lawful s) (w : Word32) (isReply first : Bool) :
    lawful (goodExchange w isReply first s) := by
  have ended : lawful (s.setPp (endExchange isReply s.pp)) := by
    cases isReply <;> exact lawful_setPp h _ rfl rfl
  unfold goodExchange
  dsimp only
  split
  · exact lawful_takeCancel ended _ _ _
  · exact lawful_takeWord ended _ _

theorem lawful_exchangeEnd {s : State} (h : lawful s) (edges : Nat) (w : Word32) (first : Bool) :
    Answers lawful (execExchangeEnd edges w first s) := by
  refine answers_next ?_
  split
  · exact h
  · exact lawful_setPp h _ rfl rfl
  · split
    · exact lawful_goodExchange h _ _ _
    · exact lawful_setPp h _ rfl rfl

/-! The step. -/

theorem lawful_exec {s : State} (h : lawful s) (i : Instr) : Answers lawful (exec i s) := by
  cases i with
  | hardwareReset address role1 role0 inputs => exact answers_next (lawful_atReset ..)
  | profileWindowExpiry => exact lawful_profileWindowExpiry h
  | frameStart slots => exact lawful_frameStart h slots
  | collision => exact lawful_collision h
  | frameSent => exact lawful_frameSent h
  | frameEnd chars framingError => exact lawful_frameEnd h chars framingError
  | roundTimerExpiry => exact lawful_roundTimerExpiry h
  | silenceTimerExpiry => exact lawful_silenceTimerExpiry h
  | answerTimerExpiry => exact lawful_answerTimerExpiry h
  | stallTimerExpiry => exact lawful_stallTimerExpiry h
  | inputEdge input level => exact lawful_inputEdge h input level
  | esdEvent => exact lawful_esdEvent h
  | tripEvent => exact lawful_tripEvent h
  | permitEvent => exact lawful_permitEvent h
  | auxEvent => exact lawful_auxEvent h
  | in3DebounceExpiry => exact lawful_in3DebounceExpiry h
  | flameProvingExpiry => exact lawful_flameProvingExpiry h
  | valvePeriodStart => exact lawful_valvePeriodStart h
  | scanStart => exact lawful_scanStart h
  | scanComplete codes => exact lawful_scanComplete h codes
  | exchangeStart => exact lawful_exchangeStart h
  | exchangeEnd edges word first => exact lawful_exchangeEnd h edges word first
  | nop => exact lawful_takeHeld h _ _ fun w _ k => lawful_commandNop k w
  | status => exact lawful_takeHeld h _ _ fun w _ k => lawful_commandStatus k w
  | contract => exact lawful_takeHeld h _ _ fun _ _ k => lawful_stageReply k _
  | window => exact lawful_takeHeld h _ _ fun w _ k => lawful_commandWindow k w
  | read => exact lawful_takeHeld h _ _ fun w _ k => lawful_commandRead k w
  | events => exact lawful_takeHeld h _ _ fun _ _ k => lawful_stageReply k _
  | ack => exact lawful_takeHeld h _ _ fun w _ k => lawful_commandAck k w
  | mask => exact lawful_takeHeld h _ _ fun w _ k => lawful_commandMask k w
  | demand => exact lawful_takeHeld h _ _ fun w _ k => lawful_commandDemand k w
  | push => exact lawful_takeHeld h _ _ fun w _ k => lawful_commandPush k w
  | pop => exact lawful_takeHeld h _ _ fun w _ k => lawful_commandPop k w
  | handover => exact lawful_takeHeld h _ _ fun w _ k => lawful_commandHandover k w
  | tripClear => exact lawful_takeHeld h _ _ fun w _ k => lawful_commandTripClear k w
  | release => exact lawful_takeHeld h _ _ fun w _ k => lawful_commandRelease k w
  | restart => exact lawful_takeHeld h _ _ fun w _ k => lawful_commandRestart k w
  | profileWord => exact lawful_takeHeld h _ _ fun w _ k => lawful_commandProfileWord k w
  | profileDone => exact lawful_takeHeld h _ _ fun w _ k => lawful_commandProfileDone k w
  | cancel => exact answers_next (lawful_performCancel h)
  | illegalCommandCode => exact lawful_illegalCommandCode h
  | startBitDetected => exact lawful_startBitDetected h

/-- Settles O3: on an empty queue the clock alone moves; else the command at the front keeps the laws. -/
theorem stepKeepsLaws : Obligations.StepKeepsLaws := by
  unfold Obligations.StepKeepsLaws
  intro s t h stepped
  unfold step at stepped
  split at stepped
  · exact answers_next (lawful_tick h) t stepped
  · exact lawful_exec (lawful_setPending h _) _ t stepped

end Sys2Proof.Steps
end

section
/-! SUPPORT. What a command can do to the profile image: only hardware reset and a PROFILE-WORD that is accepted change
it (R118), and an accepted word keeps the law of the image (R119). -/

namespace Sys2Proof.Profile

open Sys2Proof.Machine Sys2Proof.Safety Sys2Proof.Laws Sys2Proof.Steps

/-! The port's registers apart from the event flags are out of reach of the blocks. -/

/-- Of the Panel Port nothing changes but the event flags (R161). -/
def FlagsOnly (s t : State) : Prop := t.pp = { s.pp with flags := t.pp.flags }

theorem FlagsOnly.refl (s : State) : FlagsOnly s s := rfl

theorem FlagsOnly.trans {s t u : State} (h : FlagsOnly s t) (k : FlagsOnly t u) : FlagsOnly s u := by
  unfold FlagsOnly at *
  rw [k, h]

theorem FlagsOnly.image {s t : State} (h : FlagsOnly s t) : t.pp.image = s.pp.image := by rw [h]

theorem flagsOnly_of_queueWork {s t : State} (w : QueueWork s t) : FlagsOnly s t := w.pp

theorem flagsOnly_of_stackWork {s t : State} (w : StackWork s t) : FlagsOnly s t := w.pp

theorem flagsOnly_of_eq {s t : State} (h : t.pp = s.pp) : FlagsOnly s t := by
  unfold FlagsOnly
  rw [h]

theorem flagsOnly_raiseIf (c : Bool) (e : EventFlag) (s : State) : FlagsOnly s (raiseIf c e s) :=
  flagsOnly_of_queueWork (queueWork_raiseIf c e s)

/-! Own frames, asking. -/

theorem flagsOnly_offerPlain (body : FrameBody) (s : State) : FlagsOnly s (offerPlain body s) :=
  flagsOnly_of_queueWork (queueWork_offerPlain body s)

theorem flagsOnly_latchAndReport (s : State) : FlagsOnly s (latchAndReport s) :=
  (flagsOnly_of_eq rfl).trans (flagsOnly_offerPlain _ _)

theorem flagsOnly_offerAsk (server : Address) (s : State) : FlagsOnly s (offerAsk server s) := by
  unfold offerAsk
  dsimp only
  split
  · exact (flagsOnly_of_queueWork (queueWork_offerFrame _ s)).trans (flagsOnly_of_eq rfl)
  · exact flagsOnly_of_queueWork ((queueWork_offerFrame _ s).trans (queueWork_attemptFail _))

theorem flagsOnly_askChosen (server : Option Address) (s : State) : FlagsOnly s (askChosen server s) := by
  unfold askChosen
  split
  · exact .refl s
  · split
    · exact flagsOnly_offerAsk _ s
    · exact .refl s

/-! The close. -/

theorem flagsOnly_plantTripReconcile (s : State) : FlagsOnly s (plantTripReconcile s) := by
  have marked (b : Bool) : FlagsOnly s (s.setAe { s.ae with plantTrip := b }) := rfl
  unfold plantTripReconcile
  split_ifs
  · exact .refl s
  · exact (marked true).trans (flagsOnly_of_stackWork (stackWork_devicePush _ _))
  · exact (marked false).trans (flagsOnly_of_stackWork (stackWork_deviceWithdraw _ _))
  · exact .refl s

theorem flagsOnly_ownLiveNotice (s : State) : FlagsOnly s (ownLiveNotice s) := by
  have freed : FlagsOnly s (deviceWithdraw .rejoinHold (s.setAe { s.ae with ownLive := true })) :=
    FlagsOnly.trans (t := s.setAe { s.ae with ownLive := true }) rfl
      (flagsOnly_of_stackWork (stackWork_deviceWithdraw _ _))
  unfold ownLiveNotice
  dsimp only
  split_ifs
  · exact freed.trans (flagsOnly_of_stackWork (stackWork_deviceWithdraw _ _))
  · exact freed
  · exact .refl s

theorem flagsOnly_closeNotice (returned : Bool) (server : Option Address) (s : State) :
    FlagsOnly s (closeNotice returned server s) := by
  have ended : FlagsOnly s (if returned then attemptEnd s else failAttempt s) := by
    split
    · exact flagsOnly_of_queueWork (queueWork_attemptEnd s)
    · exact flagsOnly_of_queueWork (queueWork_failAttempt s)
  have served (u : State) : FlagsOnly u (if isServing u.ttu.phase then servingEnd u else u) := by
    split
    · exact flagsOnly_of_queueWork (queueWork_servingEnd u)
    · exact .refl u
  exact (ended.trans (served _)).trans (flagsOnly_askChosen server _)

theorem flagsOnly_demandClosed (s : State) : FlagsOnly s (demandClosed s) := by
  unfold demandClosed
  split <;> rfl

theorem flagsOnly_raiseMoved (before : AllocationEngine) (s : State) : FlagsOnly s (raiseMoved before s) :=
  ((flagsOnly_raiseIf _ _ _).trans (flagsOnly_raiseIf _ _ _)).trans (flagsOnly_raiseIf _ _ _)

theorem flagsOnly_closeEvents (before : AllocationEngine) (written : Word16) (s : State) :
    FlagsOnly s (closeEvents before written s) :=
  (((((flagsOnly_raiseIf _ _ _).trans (flagsOnly_raiseIf _ _ _)).trans (flagsOnly_raiseIf _ _ _)).trans
    (flagsOnly_raiseMoved _ _)).trans (flagsOnly_raiseIf _ _ _)).trans (flagsOnly_raiseIf _ _ _)

theorem flagsOnly_performClose (next : Word16) (s : State) : FlagsOnly s (performClose next s) := by
  have closed : FlagsOnly s (withdrawMark (s.setAe (s.closedEngine next))) := rfl
  have handed (u : State) : FlagsOnly u (ownLiveNotice (plantTripReconcile (handResults u))) :=
    (FlagsOnly.trans (t := handResults u) rfl (flagsOnly_plantTripReconcile _)).trans (flagsOnly_ownLiveNotice _)
  have took (u : State) : FlagsOnly u (if u.ae.committed.offer then automaticTake u else u) := by
    split
    · exact flagsOnly_of_queueWork (queueWork_automaticTake u)
    · exact .refl u
  exact ((((((closed.trans (handed _)).trans (flagsOnly_closeNotice _ _ _)).trans (took _)).trans
    (flagsOnly_of_queueWork (queueWork_reofferHold _))).trans (flagsOnly_latchAndReport _)).trans
    (flagsOnly_closeEvents _ _ _)).trans (flagsOnly_demandClosed _)

theorem flagsOnly_witnessClose (next : Word16) (s : State) : FlagsOnly s (witnessClose next s) := by
  have announced (found : Bool) (u : State) : FlagsOnly u (if found then announceOnce u else u) := by
    split
    · exact flagsOnly_of_queueWork (queueWork_announceOnce u)
    · exact .refl u
  exact (FlagsOnly.trans (t := s.setAe { s.ae with journal := [], round := next }) rfl (announced _ _)).trans
    (flagsOnly_closeNotice _ _ _)

theorem flagsOnly_closeInto (next : Word16) (s : State) : FlagsOnly s (closeInto next s) := by
  unfold closeInto
  split
  · exact flagsOnly_performClose next s
  · exact flagsOnly_performClose next s
  · exact flagsOnly_witnessClose next s
  · exact .refl s
  · exact .refl s

theorem flagsOnly_markKnown (carried : Word16) (s : State) : FlagsOnly s (markKnown carried s) := by
  unfold markKnown
  split_ifs
  · exact flagsOnly_closeInto carried s
  · rfl
  · exact FlagsOnly.trans (t := countSlip s) rfl (flagsOnly_closeInto carried _)

theorem flagsOnly_takeMark (carried : Word16) (s : State) : FlagsOnly s (takeMark carried s) := by
  unfold takeMark
  cases s.ae.join with
  | profile | muted => exact .refl s
  | listening | joined | diverged =>
    dsimp only
    split_ifs
    · rfl
    · rfl
    · exact flagsOnly_markKnown carried s

/-! The load, REJOIN, founding, the clash. -/

theorem flagsOnly_loadSnapshot (body : List Byte) (digest : Word16) (s : State) :
    FlagsOnly s (loadSnapshot body digest s) := by
  have loaded : FlagsOnly s (handResults ((s.setTtu (idleTransfer 0)).setAe (s.loadedEngine body digest))) := rfl
  exact ((loaded.trans (flagsOnly_plantTripReconcile _)).trans (flagsOnly_latchAndReport _)).trans
    (FlagsOnly.trans (FlagsOnly.trans (flagsOnly_raiseIf true _ _) (flagsOnly_raiseIf true _ _))
      (flagsOnly_raiseMoved _ _))

theorem flagsOnly_dataReceived (round : Word16) (index : Nat) (bytes : List Byte) (s : State) :
    FlagsOnly s (dataReceived round index bytes s) := by
  unfold dataReceived checkSnapshot
  split
  · dsimp only
    split_ifs
    · exact flagsOnly_loadSnapshot _ _ s
    · exact flagsOnly_of_queueWork (queueWork_attemptFail s)
    · rfl
    · exact flagsOnly_of_queueWork (queueWork_attemptFail s)
  · exact flagsOnly_of_queueWork (queueWork_attemptFail s)
  · exact .refl s
  · exact .refl s

theorem flagsOnly_performRejoin (s : State) : FlagsOnly s (performRejoin s) := by
  have pushed (u : State) : FlagsOnly u (devicePush .rejoinHold u) :=
    flagsOnly_of_stackWork (stackWork_devicePush _ u)
  exact FlagsOnly.trans (t := emptyQueue (s.setTtu (idleTransfer 0))) rfl
    ((FlagsOnly.trans (t := State.setAe _ _) rfl (pushed _)).trans
      (FlagsOnly.trans (t := giveLead false _) rfl (flagsOnly_raiseIf true _ _)))

theorem flagsOnly_settle (s : State) : FlagsOnly s (settle s) := by
  unfold settle
  split
  · exact flagsOnly_performRejoin s
  · exact .refl s

theorem flagsOnly_performFounding (s : State) : FlagsOnly s (performFounding s) := by
  unfold performFounding
  refine FlagsOnly.trans ?_ (flagsOnly_latchAndReport _)
  refine FlagsOnly.trans ?_ (flagsOnly_offerPlain _ _)
  refine FlagsOnly.trans ?_ (flagsOnly_offerPlain _ _)
  rfl

theorem flagsOnly_performClash (s : State) : FlagsOnly s (performClash s) := by
  unfold performClash
  refine FlagsOnly.trans ?_ (flagsOnly_raiseIf true .joinChange _)
  refine FlagsOnly.trans ?_ (flagsOnly_raiseIf true .addressClash _)
  refine FlagsOnly.trans (t := devicePush _ _) ?_ rfl
  refine FlagsOnly.trans ?_ (flagsOnly_of_stackWork (stackWork_devicePush _ _))
  rfl

/-! Delivery and the commands of the link. -/

theorem flagsOnly_journalFrame (own tracked : Bool) (f : GoodFrame) (r : Record) (s : State) :
    FlagsOnly s (journalFrame own tracked f r s) := by
  have heard : FlagsOnly s (offerHeard r (appendRecord r s)) :=
    FlagsOnly.trans (t := appendRecord r s) rfl (flagsOnly_of_queueWork (queueWork_offerHeard r _))
  have took (u : State) : FlagsOnly u (demandTaken u) := by
    unfold demandTaken
    split <;> rfl
  unfold journalFrame
  dsimp only
  split_ifs
  · exact .refl s
  · exact heard.trans (took _)
  · exact heard
  · exact flagsOnly_of_queueWork (queueWork_ownNotTaken _ _ s)
  · exact .refl s

theorem flagsOnly_deliverFrame (own tracked : Bool) (f : GoodFrame) (s : State) :
    FlagsOnly s (deliverFrame own tracked f s) := by
  unfold deliverFrame
  split
  · exact flagsOnly_takeMark _ s
  · exact flagsOnly_of_queueWork (queueWork_askReceived _ _ _ s)
  · split
    · exact flagsOnly_of_queueWork (queueWork_headerReceived _ _ _ _ s)
    · exact .refl s
  · split
    · exact flagsOnly_dataReceived _ _ _ s
    · exact .refl s
  all_goals
    split
    · exact .refl s
    · exact flagsOnly_journalFrame _ _ _ _ s

theorem flagsOnly_receiveFrame (own : OwnPart) (chars : List Byte) (framingError : Bool) (s : State) :
    FlagsOnly s (receiveFrame own chars framingError s) := by
  have clashed (c : Bool) (u : State) : FlagsOnly u (if c = true then performClash u else u) := by
    split
    · exact flagsOnly_performClash u
    · exact .refl u
  unfold receiveFrame
  split
  · unfold receiveGood
    dsimp only
    split
    · rfl
    · exact (FlagsOnly.trans (t := acceptFrame _ s) rfl (clashed _ _)).trans (flagsOnly_deliverFrame _ _ _ _)
  · unfold receiveFailed journalGap
    split <;> rfl

theorem flagsOnly_lineQuiet (since : Nat) (s : State) : FlagsOnly s (lineQuiet since s) := by
  unfold lineQuiet silenceAtFrameEnd
  split <;> rfl

theorem flagsOnly_frameSent (l : LineFrame) (q : QueuedFrame) (rest : List QueuedFrame) (s : State) :
    FlagsOnly s (frameSent l q rest s) :=
  ((FlagsOnly.trans (t := frameOff l.chars rest s) rfl (flagsOnly_deliverFrame _ _ _ _)).trans
    (flagsOnly_of_queueWork (queueWork_sentNotice q _))).trans (flagsOnly_settle _)

theorem flagsOnly_silenceAtFrameStart (s : State) : FlagsOnly s (silenceAtFrameStart s) := by
  unfold silenceAtFrameStart
  split <;> rfl

theorem flagsOnly_discardHead (q : QueuedFrame) (rest : List QueuedFrame) (s : State) :
    FlagsOnly s (discardHead q rest s) :=
  (FlagsOnly.trans (t := (countDiscard s).setLc { (countDiscard s).lc with queue := rest }) rfl
    (flagsOnly_raiseIf _ _ _)).trans (flagsOnly_of_queueWork (queueWork_discardNotice q _))

/-! The image after a command. -/

theorem image_frameStart (slots : Nat) (s : State) :
    Answers (fun t => t.pp.image = s.pp.image) (execFrameStart slots s) := by
  unfold execFrameStart
  split
  · exact answers_next rfl
  · split
    · exact answers_next (FlagsOnly.image (s := s)
        (FlagsOnly.trans (t := State.setLc _ _) rfl (flagsOnly_silenceAtFrameStart _)))
    · exact answers_next rfl

theorem image_collision (s : State) : Answers (fun t => t.pp.image = s.pp.image) (execCollision s) := by
  unfold execCollision
  split
  · refine answers_next ?_
    split
    · exact FlagsOnly.image (s := s)
        ((FlagsOnly.trans (t := collided _ _ s) rfl (flagsOnly_discardHead _ _ _)).trans (flagsOnly_settle _))
    · rfl
  · exact answers_next rfl

theorem image_frameSent (s : State) : Answers (fun t => t.pp.image = s.pp.image) (execFrameSent s) := by
  unfold execFrameSent
  split
  · exact answers_next (FlagsOnly.image (s := s) (FlagsOnly.trans (t := advanceTo _ s) rfl (flagsOnly_frameSent ..)))
  · exact answers_next rfl

theorem image_frameEnd (chars : List Byte) (framingError : Bool) (s : State) :
    Answers (fun t => t.pp.image = s.pp.image) (execFrameEnd chars framingError s) := by
  unfold execFrameEnd
  split
  · exact answers_next rfl
  · exact answers_next (((flagsOnly_lineQuiet _ s).trans (flagsOnly_receiveFrame _ _ _ _)).trans
      (flagsOnly_settle _)).image

theorem image_roundTimerExpiry (s : State) : Answers (fun t => t.pp.image = s.pp.image) (execRoundTimerExpiry s) := by
  have offered (c : Bool) (u : State) : FlagsOnly u (if c = true then offerPlain .mark u else u) := by
    split
    · exact flagsOnly_offerPlain _ u
    · exact .refl u
  unfold execRoundTimerExpiry
  split
  · exact answers_next rfl
  · next due _ =>
    exact answers_next (FlagsOnly.image (s := s)
      (((FlagsOnly.trans (t := restartRoundTimer (advanceTo due s)) rfl (offered _ _)).trans
        (flagsOnly_of_stackWork (stackWork_expiryNotice _))).trans (flagsOnly_settle _)))

theorem image_silenceTimerExpiry (s : State) :
    Answers (fun t => t.pp.image = s.pp.image) (execSilenceTimerExpiry s) := by
  unfold execSilenceTimerExpiry
  split
  · exact answers_next rfl
  · refine answers_next ?_
    split
    · exact (flagsOnly_performFounding _).image
    · rfl

theorem image_attemptFailed (due : Nat) (s : State) :
    (settle (attemptFail (advanceTo due s))).pp.image = s.pp.image :=
  ((flagsOnly_of_queueWork (queueWork_attemptFail (advanceTo due s))).trans (flagsOnly_settle _)).image

theorem image_answerTimerExpiry (s : State) :
    Answers (fun t => t.pp.image = s.pp.image) (execAnswerTimerExpiry s) := by
  unfold execAnswerTimerExpiry
  split
  · exact answers_next rfl
  · exact answers_next (image_attemptFailed _ s)

theorem image_stallTimerExpiry (s : State) : Answers (fun t => t.pp.image = s.pp.image) (execStallTimerExpiry s) := by
  unfold execStallTimerExpiry
  split
  · exact answers_next rfl
  · exact answers_next (image_attemptFailed _ s)

theorem image_countAux (level : Bool) (s : State) : (countAux level s).pp.image = s.pp.image := by
  simp [countAux, raiseLost]

theorem image_inputEdge (input : InputPin) (level : Bool) (s : State) :
    Answers (fun t => t.pp.image = s.pp.image) (execInputEdge input level s) := by
  cases input with
  | esd => exact answers_next (by simp [esdPin, raiseLost])
  | trip => exact answers_next (by simp [tripPin, raiseLost])
  | permit => exact answers_next (by simp [permitPin, raiseLost])
  | aux =>
    refine answers_next ?_
    unfold auxPin
    split_ifs
    · rfl
    · rfl
    · exact image_countAux _ _
    · rfl

theorem image_in3DebounceExpiry (s : State) :
    Answers (fun t => t.pp.image = s.pp.image) (execIn3DebounceExpiry s) := by
  unfold execIn3DebounceExpiry
  split
  · exact answers_next rfl
  · refine answers_next ?_
    split
    · rfl
    · exact image_countAux _ _

theorem image_flameProvingExpiry (s : State) :
    Answers (fun t => t.pp.image = s.pp.image) (execFlameProvingExpiry s) := by
  unfold execFlameProvingExpiry
  split
  · exact answers_next rfl
  · refine answers_next ?_
    split
    · exact image_countAux _ _
    · rfl

theorem image_esdEvent (s : State) : Answers (fun t => t.pp.image = s.pp.image) (execEsdEvent s) := by
  have pushed (u : State) : FlagsOnly u (if u.role = .flare then u else devicePush .esdIsolate u) := by
    split
    · exact .refl u
    · exact flagsOnly_of_stackWork (stackWork_devicePush _ u)
  unfold execEsdEvent
  split
  · refine answers_next (FlagsOnly.image (FlagsOnly.trans ?_ (flagsOnly_settle _)))
    refine FlagsOnly.trans (t := offerOrHold _ _ _) ?_ rfl
    refine FlagsOnly.trans ?_ (flagsOnly_of_queueWork (queueWork_offerOrHold _ _ _))
    exact FlagsOnly.trans (t := s.setEiu _) rfl (pushed _)
  · exact answers_next rfl

theorem image_tripEvent (s : State) : Answers (fun t => t.pp.image = s.pp.image) (execTripEvent s) := by
  have pushed (u : State) : FlagsOnly u (devicePush .tripIsolate u) :=
    flagsOnly_of_stackWork (stackWork_devicePush _ u)
  unfold execTripEvent tripActions
  split
  · refine answers_next ?_
    dsimp only
    split
    · exact ((pushed _).trans (flagsOnly_of_queueWork (queueWork_offerFrame _ _))).image
    · exact (pushed _).image
  · exact answers_next rfl

theorem flagsOnly_permitActions (s : State) : FlagsOnly s (permitActions s) := by
  have withdrawn (kind : OverrideKind) (u : State) : FlagsOnly u (deviceWithdraw kind u) :=
    flagsOnly_of_stackWork (stackWork_deviceWithdraw kind u)
  have cleared (u : State) : FlagsOnly u (clearOwnTrip u) := by
    unfold clearOwnTrip
    dsimp only
    split
    · exact FlagsOnly.trans (flagsOnly_of_queueWork (queueWork_offerOrHold _ _ u)) rfl
    · rfl
  have freed (may : Bool) (u : State) : FlagsOnly u (if may = true then deviceWithdraw .startHold u else u) := by
    split
    · exact withdrawn _ u
    · exact .refl u
  have done : FlagsOnly s (if s.mayRelease = true then
      deviceWithdraw .startHold (clearOwnTrip (dropHeldTrip (deviceWithdraw .tripIsolate (deviceWithdraw .esdIsolate s))))
      else clearOwnTrip (dropHeldTrip (deviceWithdraw .tripIsolate (deviceWithdraw .esdIsolate s)))) :=
    (((withdrawn _ s).trans (withdrawn _ _)).trans (FlagsOnly.trans (t := dropHeldTrip _) rfl (cleared _))).trans
      (freed _ _)
  unfold permitActions
  dsimp only
  generalize (if s.mayRelease = true then deviceWithdraw .startHold _ else _) = u at done ⊢
  split
  · exact done.trans (flagsOnly_of_queueWork (queueWork_offerFrame _ _))
  · exact done

theorem image_permitEvent (s : State) : Answers (fun t => t.pp.image = s.pp.image) (execPermitEvent s) := by
  unfold execPermitEvent
  split
  · refine answers_next (FlagsOnly.image (FlagsOnly.trans ?_ (flagsOnly_settle _)))
    exact (flagsOnly_permitActions (s.setEiu _) :)
  · exact answers_next rfl

theorem image_auxEvent (s : State) : Answers (fun t => t.pp.image = s.pp.image) (execAuxEvent s) := by
  unfold execAuxEvent auxActions
  split
  · refine answers_next ?_
    dsimp only
    split <;> rfl
  · exact answers_next rfl

theorem image_scanStart (s : State) : Answers (fun t => t.pp.image = s.pp.image) (execScanStart s) := by
  unfold execScanStart
  split <;> exact answers_next rfl

theorem image_scanComplete (codes : ScanCodes) (s : State) :
    Answers (fun t => t.pp.image = s.pp.image) (execScanComplete codes s) := by
  unfold execScanComplete
  split
  · exact answers_next rfl
  · exact answers_next (by simp [completeScan])

/-! The panel commands. -/

/-- The image is the one before, that of a role at reset, or the one before with an accepted word stored. -/
inductive ImageStep (before : List Word16) : List Word16 → Prop
  | kept : ImageStep before before
  | defaults (role : Role) : ImageStep before (defaultProfile role)
  | stored (index : Nat) (v : Word16) (accepted : profileAccepted before index v = true) :
    ImageStep before (before.set index v)

theorem ImageStep.of_eq {before after : List Word16} (h : after = before) : ImageStep before after := h ▸ .kept

theorem image_offered (q : QueuedFrame) (s : State) : (offerFrame q s).2.pp.image = s.pp.image :=
  (flagsOnly_of_queueWork (queueWork_offerFrame q s)).image

theorem image_commandStatus (w : Word32) (s : State) : (commandStatus w s).pp.image = s.pp.image := by
  have channel (reading : Option Word16) : (statusChannel reading s).pp.image = s.pp.image := by
    cases reading <;> rfl
  unfold commandStatus
  split
  case h_2 | h_3 | h_4 | h_5 => exact channel _
  all_goals rfl

theorem image_commandDemand (w : Word32) (s : State) : (commandDemand w s).pp.image = s.pp.image := by
  have passed (tier : Nat) : (passDemand tier s).pp.image = s.pp.image := by
    unfold passDemand
    dsimp only
    split <;> exact image_offered _ (s.setAe { s.ae with lastTier := tier })
  unfold commandDemand
  split_ifs
  case neg => exact passed _
  all_goals rfl

theorem image_commandPush (w : Word32) (s : State) : (commandPush w s).pp.image = s.pp.image := by
  unfold commandPush
  split
  · rfl
  · next kind code =>
    split
    · rfl
    · have placed := (flagsOnly_of_stackWork (stackWork_placeOverride kind (pushValue kind (argumentWord23 w)) s
        (.inl (panelKind_of_pushKindOfCode code)))).image
      unfold placePanel
      dsimp only
      split <;> exact placed

theorem image_commandPop (w : Word32) (s : State) : (commandPop w s).pp.image = s.pp.image := by
  unfold commandPop
  split <;> rfl

theorem image_commandHandover (w : Word32) (s : State) : (commandHandover w s).pp.image = s.pp.image := by
  have passed (action : DutyAction) : (passHandover action s).pp.image = s.pp.image := by
    unfold passHandover
    dsimp only
    split <;> exact image_offered _ s
  unfold commandHandover
  split_ifs
  · rfl
  · rfl
  · split
    · exact passed _
    · exact passed _
    · rfl

theorem image_commandTripClear (w : Word32) (s : State) : (commandTripClear w s).pp.image = s.pp.image := by
  have passed (target : Address) : (passTripClear target s).pp.image = s.pp.image := by
    unfold passTripClear
    dsimp only
    split <;> exact image_offered _ s
  unfold commandTripClear
  split
  · rfl
  · split
    · rfl
    · exact (flagsOnly_settle _).image.trans (passed _)

theorem image_commandRelease (w : Word32) (s : State) : (commandRelease w s).pp.image = s.pp.image := by
  unfold commandRelease
  split
  · exact (flagsOnly_of_stackWork (stackWork_deviceWithdraw .startHold s)).image
  · rfl

theorem image_commandRestart (w : Word32) (s : State) : (commandRestart w s).pp.image = s.pp.image := by
  unfold commandRestart
  split <;> rfl

theorem imageStep_commandProfileWord (w : Word32) (s : State) :
    ImageStep s.pp.image (commandProfileWord w s).pp.image := by
  unfold commandProfileWord
  split_ifs with closed accepted
  · exact .kept
  · have image : (accept codeProfileWord (storeWord (argument1 w) (argumentWord23 w) s)).pp.image =
        s.pp.image.set (argument1 w) (argumentWord23 w) := by
      unfold storeWord
      dsimp only
      split <;> rfl
    rw [image]
    exact .stored _ _ accepted
  · exact .kept

theorem image_commandProfileDone (w : Word32) (s : State) : (commandProfileDone w s).pp.image = s.pp.image := by
  unfold commandProfileDone
  split <;> rfl

theorem image_commandNop (w : Word32) (s : State) : (commandNop w s).pp.image = s.pp.image := by
  unfold commandNop
  split <;> rfl

theorem image_commandWindow (w : Word32) (s : State) : (commandWindow w s).pp.image = s.pp.image := by
  unfold commandWindow
  split <;> rfl

theorem imageStep_takeHeld (code : Nat) (command : Word32 → State → State) (s : State)
    (steps : ∀ w u, ImageStep u.pp.image (command w u).pp.image) :
    Answers (fun t => ImageStep s.pp.image t.pp.image) (.next (takeHeld code command s)) := by
  refine answers_next ?_
  unfold takeHeld
  split
  · exact .kept
  · next w _ => exact steps w (emptyHolding s)

theorem imageStep_performCommand (w : Word32) (s : State) : ImageStep s.pp.image (performCommand w s).pp.image := by
  unfold performCommand
  split
  · exact .of_eq (image_commandNop w s)
  · exact .of_eq (image_commandStatus w s)
  · exact .kept
  · exact .of_eq (image_commandWindow w s)
  · exact .kept
  · exact .kept
  · exact .kept
  · exact .kept
  · exact .of_eq (image_commandDemand w s)
  · exact .of_eq (image_commandPush w s)
  · exact .of_eq (image_commandPop w s)
  · exact .of_eq (image_commandHandover w s)
  · exact .of_eq (image_commandTripClear w s)
  · exact .of_eq (image_commandRelease w s)
  · exact .of_eq (image_commandRestart w s)
  · exact imageStep_commandProfileWord w s
  · exact .of_eq (image_commandProfileDone w s)
  · exact .kept

/-! The exchanges. -/

theorem image_performCancel (s : State) : (performCancel s).pp.image = s.pp.image := by
  have staged (o : Word32) (u : State) : (stageOutcome o u).pp.image = u.pp.image := by
    unfold stageOutcome
    split <;> rfl
  unfold performCancel
  split
  · rfl
  · exact staged _ _
  · exact staged _ _

theorem imageStep_handlerTakes (s : State) : ImageStep s.pp.image (handlerTakes s).pp.image := by
  unfold handlerTakes
  split
  · exact .kept
  · exact imageStep_performCommand _ (emptyHolding s)

theorem imageStep_goodExchange (w : Word32) (isReply first : Bool) (s : State) :
    ImageStep s.pp.image (goodExchange w isReply first s).pp.image := by
  have ended : (s.setPp (endExchange isReply s.pp)).pp.image = s.pp.image := by cases isReply <;> rfl
  have arrived (u : State) : (arrive w u).pp.image = u.pp.image := by
    unfold arrive
    split <;> rfl
  rw [← ended]
  unfold goodExchange takeCancel takeWord
  dsimp only
  split_ifs
  · exact .kept
  · exact .of_eq (image_performCancel _)
  · rw [image_performCancel]
    exact imageStep_handlerTakes _
  · exact imageStep_handlerTakes _
  · rw [arrived]
    exact imageStep_handlerTakes _

theorem imageStep_exchangeEnd (edges : Nat) (w : Word32) (first : Bool) (s : State) :
    Answers (fun t => ImageStep s.pp.image t.pp.image) (execExchangeEnd edges w first s) := by
  refine answers_next ?_
  split
  · exact .kept
  · exact .kept
  · split
    · exact imageStep_goodExchange _ _ _ s
    · exact .kept

/-! The step. -/

theorem imageStep_of_image {s : State} {o : Answer} (h : Answers (fun t => t.pp.image = s.pp.image) o) :
    Answers (fun t => ImageStep s.pp.image t.pp.image) o := fun t answered => .of_eq (h t answered)

theorem imageStep_exec (i : Instr) (s : State) :
    Answers (fun t => ImageStep s.pp.image t.pp.image) (exec i s) := by
  have command (code : Nat) (c : Word32 → State → State) (same : ∀ w u, (c w u).pp.image = u.pp.image) :=
    imageStep_takeHeld code c s fun w u => .of_eq (same w u)
  cases i with
  | hardwareReset address role1 role0 inputs => exact answers_next (.defaults _)
  | profileWindowExpiry =>
    refine answers_next ?_
    split <;> exact .kept
  | frameStart slots => exact imageStep_of_image (image_frameStart slots s)
  | collision => exact imageStep_of_image (image_collision s)
  | frameSent => exact imageStep_of_image (image_frameSent s)
  | frameEnd chars framingError => exact imageStep_of_image (image_frameEnd chars framingError s)
  | roundTimerExpiry => exact imageStep_of_image (image_roundTimerExpiry s)
  | silenceTimerExpiry => exact imageStep_of_image (image_silenceTimerExpiry s)
  | answerTimerExpiry => exact imageStep_of_image (image_answerTimerExpiry s)
  | stallTimerExpiry => exact imageStep_of_image (image_stallTimerExpiry s)
  | inputEdge input level => exact imageStep_of_image (image_inputEdge input level s)
  | esdEvent => exact imageStep_of_image (image_esdEvent s)
  | tripEvent => exact imageStep_of_image (image_tripEvent s)
  | permitEvent => exact imageStep_of_image (image_permitEvent s)
  | auxEvent => exact imageStep_of_image (image_auxEvent s)
  | in3DebounceExpiry => exact imageStep_of_image (image_in3DebounceExpiry s)
  | flameProvingExpiry => exact imageStep_of_image (image_flameProvingExpiry s)
  | valvePeriodStart => exact answers_next .kept
  | scanStart => exact imageStep_of_image (image_scanStart s)
  | scanComplete codes => exact imageStep_of_image (image_scanComplete codes s)
  | exchangeStart =>
    refine answers_next ?_
    split <;> exact .kept
  | exchangeEnd edges word first => exact imageStep_exchangeEnd edges word first s
  | nop => exact command _ _ image_commandNop
  | status => exact command _ _ image_commandStatus
  | contract => exact command _ _ fun _ _ => rfl
  | window => exact command _ _ image_commandWindow
  | read => exact command _ _ fun _ _ => rfl
  | events => exact command _ _ fun _ _ => rfl
  | ack => exact command _ _ fun _ _ => rfl
  | mask => exact command _ _ fun _ _ => rfl
  | demand => exact command _ _ image_commandDemand
  | push => exact command _ _ image_commandPush
  | pop => exact command _ _ image_commandPop
  | handover => exact command _ _ image_commandHandover
  | tripClear => exact command _ _ image_commandTripClear
  | release => exact command _ _ image_commandRelease
  | restart => exact command _ _ image_commandRestart
  | profileWord => exact imageStep_takeHeld _ _ s imageStep_commandProfileWord
  | profileDone => exact command _ _ image_commandProfileDone
  | cancel => exact answers_next (.of_eq (image_performCancel s))
  | illegalCommandCode =>
    change Answers _ (execIllegalCommandCode s)
    unfold execIllegalCommandCode
    split <;> exact answers_next .kept
  | startBitDetected =>
    refine answers_next ?_
    split
    · exact .kept
    · exact .of_eq (flagsOnly_silenceAtFrameStart _).image

/-! The law of the image (R119). -/

theorem imageWord_set {image : List Word16} {index : Nat} (inside : index < image.length) (v : Word16) (j : Nat) :
    imageWord (image.set index v) j = if index = j then v else imageWord image j := by
  unfold imageWord
  rw [List.getD_eq_getElem?_getD, List.getD_eq_getElem?_getD, List.getElem?_set, if_pos inside]
  split <;> rfl

theorem profileLaw_defaultProfile (role : Role) : profileLaw (defaultProfile role) := by
  unfold profileLaw
  cases role <;> decide

/-- The tier draw list law over five draws. -/
theorem tierListLaw_five (a b c d e : Nat) :
    tierListLaw [a, b, c, d, e] = true ↔
      (1 ≤ a ∧ a ≤ 4095) ∧ (b = 0 ∧ c = 0 ∧ d = 0 ∧ e = 0 ∨ a < b ∧ (1 ≤ b ∧ b ≤ 4095) ∧
        (c = 0 ∧ d = 0 ∧ e = 0 ∨ b < c ∧ (1 ≤ c ∧ c ≤ 4095) ∧
          (d = 0 ∧ e = 0 ∨ c < d ∧ (1 ≤ d ∧ d ≤ 4095) ∧ (e = 0 ∨ d < e ∧ 1 ≤ e ∧ e ≤ 4095)))) := by
  simp only [tierListLaw, Bool.and_eq_true, decide_eq_true_eq]
  by_cases hb : b = 0
  · simp [hb]
  · by_cases hc : c = 0
    · simp [hb, hc]
    · by_cases hd : d = 0
      · simp [hb, hc, hd]
      · by_cases he : e = 0 <;> simp [hb, hc, hd, he]

/-- An accepted draw of tier k takes its place in a list that holds the law, and the law holds on. -/
theorem tierListLaw_of_accepted {image : List Word16} {k v : Nat} (k_lt : k < 5)
    (law : tierListLaw (imageTiers image) = true) (accepted : tierAccepted image k v = true) :
    tierListLaw ((imageTiers image).set k v) = true := by
  unfold tierAccepted at accepted
  revert law accepted
  obtain ⟨a, b, c, d, e, tiers⟩ : ∃ a b c d e, imageTiers image = [a, b, c, d, e] := ⟨_, _, _, _, _, rfl⟩
  rw [tiers]
  rw [tierListLaw_five]
  interval_cases k <;>
    simp only [List.set_cons_zero, List.set_cons_succ, tierListLaw_five, belowHeld, List.drop_succ_cons, List.drop_zero,
      List.drop_nil, List.all_cons, List.all_nil, List.getD_cons_succ, List.getD_cons_zero, Bool.and_eq_true,
      decide_eq_true_eq, Nat.reduceAdd, Nat.reduceSub, if_true, OfNat.ofNat_ne_zero, one_ne_zero, if_false] <;>
    intro law accepted
  · omega
  all_goals
    split_ifs at accepted
    · simp only [Bool.and_eq_true, decide_eq_true_eq] at accepted
      omega
    · simp only [Bool.and_eq_true, decide_eq_true_eq] at accepted
      omega

theorem imageTiers_set {image : List Word16} {index : Nat} (inside : index < image.length) (v : Word16) :
    imageTiers (image.set index v) =
      if 6 ≤ index ∧ index ≤ 10 then (imageTiers image).set (index - 6) v.toNat else imageTiers image := by
  simp only [imageTiers, List.map_cons, List.map_nil, imageWord_set inside]
  by_cases tier : 6 ≤ index ∧ index ≤ 10
  · rw [if_pos tier]
    obtain ⟨low, high⟩ := tier
    interval_cases index <;> rfl
  · rw [if_neg tier]
    have other (j : Nat) (isTier : 6 ≤ j ∧ j ≤ 10) : index ≠ j := fun same => tier (same ▸ isTier)
    simp only [if_neg (other 6 (by decide)), if_neg (other 7 (by decide)), if_neg (other 8 (by decide)),
      if_neg (other 9 (by decide)), if_neg (other 10 (by decide))]

theorem accepted_index_lt {image : List Word16} {index : Nat} {v : Word16}
    (accepted : profileAccepted image index v = true) : index < 20 := by
  by_contra outside
  unfold profileAccepted at accepted
  split at accepted <;> first | omega | exact absurd accepted Bool.false_ne_true

theorem tierAccepted_of_accepted {image : List Word16} {index : Nat} {v : Word16} (low : 6 ≤ index)
    (high : index ≤ 10) (accepted : profileAccepted image index v = true) :
    tierAccepted image (index - 6) v.toNat = true := by
  interval_cases index <;> exact accepted

theorem profileLaw_stored {image : List Word16} {index : Nat} {v : Word16} (law : profileLaw image)
    (accepted : profileAccepted image index v = true) : profileLaw (image.set index v) := by
  obtain ⟨length, tiers, bands⟩ := law
  have inside : index < image.length := length ▸ accepted_index_lt accepted
  refine ⟨by rw [List.length_set, length], ?tiers, ?bands⟩
  case tiers =>
    rw [imageTiers_set inside]
    split
    · next tier =>
      exact tierListLaw_of_accepted (by omega) tiers (tierAccepted_of_accepted tier.1 tier.2 accepted)
    · exact tiers
  case bands =>
    rw [imageWord_set inside, imageWord_set inside]
    by_cases low_bands : index = 13
    · subst low_bands
      have fits : bandsAccepted image v = true := accepted
      simp only [bandsAccepted, decide_eq_true_eq] at fits
      simp only [if_true, Nat.reduceEqDiff, if_false]
      omega
    · by_cases full_band : index = 14
      · subst full_band
        have fits : fullBandAccepted image v = true := accepted
        simp only [fullBandAccepted, decide_eq_true_eq] at fits
        simp only [if_true, Nat.reduceEqDiff, if_false]
        omega
      · rw [if_neg low_bands, if_neg full_band]
        exact bands

theorem profileLaw_of_imageStep {before after : List Word16} (law : profileLaw before)
    (steps : ImageStep before after) : profileLaw after := by
  cases steps with
  | kept => exact law
  | defaults role => exact profileLaw_defaultProfile role
  | stored index v accepted => exact profileLaw_stored law accepted

/-- Settles O4: the image after a step is the one before, a role's defaults, or one with an accepted word stored. -/
theorem stepKeepsProfileLaw : Obligations.StepKeepsProfileLaw := by
  unfold Obligations.StepKeepsProfileLaw
  intro s t law stepped
  unfold step at stepped
  split at stepped
  · cases stepped
    exact law
  · exact profileLaw_of_imageStep law ((imageStep_exec _ _ t stepped :) : ImageStep s.pp.image t.pp.image)

/-- Settles O1: both clauses are the step's two arms. -/
theorem stepRunsFrontCommand : Obligations.StepRunsFrontCommand := by
  unfold Obligations.StepRunsFrontCommand
  refine ⟨fun c s rest => rfl, fun s idle => ?_⟩
  obtain ⟨⟩ := s
  subst idle
  rfl

/-- Settles O2: hardware reset leaves State.atReset, State.reset among them. -/
theorem lawsHoldAtReset : Obligations.LawsHoldAtReset := by
  unfold Obligations.LawsHoldAtReset
  exact ⟨lawful_atReset .., profileLaw_defaultProfile .producer, fun _ _ _ _ _ =>
    ⟨_, rfl, lawful_atReset .., profileLaw_defaultProfile _⟩⟩

/-- Settles O5: the straps fix the role; at each the two states agree field by field. -/
theorem hardwareResetLeaves : Obligations.HardwareResetLeaves := by
  unfold Obligations.HardwareResetLeaves
  intro address role1 role0 pins s role cleared noChannels rested
  have exchange : voidedExchange s.pp.exchange = if s.pp.exchange = .none then .none else .voided := by
    cases s.pp.exchange <;> rfl
  have strapped : strapRole role1 role0 = role := by cases role1 <;> cases role0 <;> rfl
  have aux : restedAux role pins.aux 0 = { rested pins.aux with reference := pins.aux && decide (role ≠ .flare) } := by
    cases role <;> cases pins.aux <;> rfl
  have image : defaultProfile role = [if role = .flare then 4 else 0, 20, 1000, 1000, 100, 1000, 100, 0, 0, 0, 0, 45,
      1000, 30 * 256 + 70, 90 * 256 + 20, 500, 500, 0x0698, 0, 1023] := by
    cases role <;> rfl
  rw [← exchange, ← aux, ← image, ← strapped]
  rfl

end Sys2Proof.Profile
end

section
/-! SUPPORT. The terms in which the statements speak of the node, each tied to the model's operation that leaves it. -/

namespace Sys2Proof.Terms

open Sys2Proof.Machine Sys2Proof.Safety Sys2Proof.Laws

/-! Single operations. -/

theorem raiseEvent_eq_raised (e : EventFlag) (s : State) : raiseEvent e s = raised s e := rfl

theorem setWaiting_eq_requeued (w : List QueuedFrame) (s : State) : setWaiting w s = requeued s w := rfl

theorem countDiscard_eq_discarded (s : State) : countDiscard s = discarded s := rfl

theorem refuseFull_eq_refusedFull (q : QueuedFrame) (s : State) : refuseFull q s = refusedFull s q.body := by
  obtain ⟨body, originator, tracked, collisions⟩ := q
  cases body <;> rfl

theorem attemptFail_eq_attemptFailed (s : State) : attemptFail s = attemptFailed s := rfl

theorem servingEnd_eq_servingOver (s : State) : servingEnd s = servingOver s := rfl

theorem acceptFrame_eq_heardGood (sender : Address) (s : State) : acceptFrame sender s = heardGood s sender := rfl

theorem appendRecord_eq_withRecord (r : Record) (s : State) : appendRecord r s = withRecord s r := rfl

theorem placeFrame_behindHead {q : QueuedFrame} (h : frameClass q.body = .head ∨ frameClass q.body = .mark)
    (w : List QueuedFrame) : placeFrame q w = behindHead q w := by
  unfold placeFrame
  rcases h with h | h <;> rw [h] <;> rfl

theorem placeFrame_tail {q : QueuedFrame} (h : frameClass q.body = .status ∨ frameClass q.body = .ordinary)
    (w : List QueuedFrame) : placeFrame q w = w ++ [q] := by
  unfold placeFrame
  rcases h with h | h <;> rw [h]

theorem restingSetpoint_eq (s : State) :
    s.restingSetpoint = if s.role = .producer ∨ s.role = .store then s.profileWord 2 else 0 := by
  unfold State.restingSetpoint
  cases s.role <;> rfl

theorem closeWindow_eq_windowClosed (s : State) : closeWindow s = windowClosed s := by
  simp only [closeWindow, windowClosed, restingSetpoint_eq, handSetpoint, withStack, retarget, restartRoundTimer,
    restartSilenceTimer, raiseEvent, raised, State.setPp, State.setVd, State.setSmp, State.setAe, State.setOvs, withSpans,
    defaultTier, State.profileWord, State.valveCapacity]

theorem silenceAtFrameEnd_eq (s : State) :
    silenceAtFrameEnd s =
      s.setAe
        { s.ae with
          silenceTimer :=
            if s.ae.join = .listening then (if lineBusy s.lc.line then .held else .running s.now)
            else s.ae.silenceTimer } := by
  unfold silenceAtFrameEnd
  split <;> rfl

theorem silenceAtFrameStart_eq (s : State) :
    silenceAtFrameStart s =
      s.setAe { s.ae with silenceTimer := if s.ae.join = .listening then .held else s.ae.silenceTimer } := by
  unfold silenceAtFrameStart
  split <;> rfl

/-- The end of a frame's last character, and the quiet behind it (R17). -/
theorem lineQuiet_eq_frameEnded (s : State) (length : Nat) :
    lineQuiet (lastCharacterEnd s.lc.line s.now length) s = frameEnded s length := by
  rw [lineQuiet, silenceAtFrameEnd_eq]
  rfl

/-- The moment at which the own frame counts as sent (R26). -/
theorem frameOff_eq_ownFrameOff {s : State} {l : LineFrame} {q : QueuedFrame} {rest : List QueuedFrame} {first : Nat}
    (h : sendingSince s l q rest first) :
    frameOff l.chars rest (advanceTo (firstStart s.lc.line s.now + characterTime * l.chars.length) s) =
      ownFrameOff s l rest first := by
  obtain ⟨-, -, last, own, busy⟩ := h
  unfold frameOff ownFrameOff
  rw [advanceTo_lc, busy]
  rfl

/-! REJOIN. -/

/-- Whether an entry gives a target does not depend on the setpoint (R139). -/
theorem targetOf_getD_getD (governing : Option OverrideEntry) (v v' capacity : Word16) (target : Duty) :
    (targetOf governing v capacity).getD ((targetOf governing v' capacity).getD target) =
      (targetOf governing v capacity).getD target := by
  cases governing with
  | none => rfl
  | some e =>
    unfold targetOf
    dsimp only
    split
    · rfl
    · cases e.kind <;> rfl

/-- The Valve Driver after a device's push: as it stood, or with the target of the new stack. -/
theorem devicePush_vd (kind : OverrideKind) (s : State) :
    (devicePush kind s).vd = s.vd ∨
      (devicePush kind s).vd =
        { s.vd with
          target := (targetOf (governingEntry (devicePush kind s).ovs.stack) s.vd.baseSetpoint s.valveCapacity).getD
            s.vd.target } := by
  unfold devicePush
  split
  · exact .inl rfl
  · split
    · exact .inr rfl
    · unfold placeOverride
      cases makeRoom s.ovs.stack with
      | none => exact .inl rfl
      | some room => exact .inr (by simp only [raiseIf_vd, raiseIf_ovs]; rfl)

/-- A device's push does not read the base setpoint or LEAD. -/
theorem devicePush_of_setpoint (kind : OverrideKind) (v : Word16) (lead : Bool) (s : State) :
    let u := { s with vd := { s.vd with baseSetpoint := v, lead } }
    (devicePush kind u).ovs = (devicePush kind s).ovs ∧ (devicePush kind u).pp = (devicePush kind s).pp := by
  intro u
  have same : u.ovs.stack = s.ovs.stack := rfl
  unfold devicePush
  rw [same]
  split
  · exact ⟨rfl, rfl⟩
  · split
    · exact ⟨rfl, rfl⟩
    · unfold placeOverride
      rw [same]
      cases makeRoom s.ovs.stack with
      | none => exact ⟨rfl, rfl⟩
      | some room => exact ⟨by simp only [raiseIf_ovs]; rfl, by simp only [raiseIf_pp]; rfl⟩

/-- The new target after a push, wherever the push found the Valve Driver. -/
theorem retarget_devicePush (kind : OverrideKind) (s : State) (v : Word16) :
    let governing := governingEntry (devicePush kind s).ovs.stack
    (targetOf governing v s.valveCapacity).getD (devicePush kind s).vd.target =
      (targetOf governing v s.valveCapacity).getD s.vd.target := by
  intro governing
  rcases devicePush_vd kind s with same | target
  · rw [same]
  · rw [target]
    exact targetOf_getD_getD ..

/-- The setpoint and LEAD handed on to a node that differs from another in its stack, target and flags. -/
theorem handSetpoint_of_shape {s p : State} (v : Word16) (lead : Bool)
    (shape : p = { s with ovs := p.ovs, vd := p.vd, pp := { s.pp with flags := p.pp.flags } })
    (vd : p.vd = { s.vd with target := p.vd.target }) :
    giveLead lead (handSetpoint v p) =
      { s with
        ovs := p.ovs
        pp := p.pp
        vd :=
          { s.vd with
            baseSetpoint := v, lead
            target := (targetOf (governingEntry p.ovs.stack) v s.valveCapacity).getD p.vd.target } } := by
  generalize p.vd.target = target at vd
  rw [vd] at shape
  rw [shape]
  rfl

/-- The target taken again on such a node. -/
theorem withStack_of_shape {s p : State}
    (shape : p = { s with ovs := p.ovs, vd := p.vd, pp := { s.pp with flags := p.pp.flags } })
    (vd : p.vd = { s.vd with target := p.vd.target }) :
    withStack p p.ovs.stack =
      { s with
        ovs := p.ovs
        pp := p.pp
        vd :=
          { s.vd with
            target := (targetOf (governingEntry p.ovs.stack) s.vd.baseSetpoint s.valveCapacity).getD p.vd.target } } := by
  generalize p.vd.target = target at vd
  rw [vd] at shape
  rw [shape]
  rfl

/-- The Valve Driver keeps all but its target at a device's push. -/
theorem devicePush_vd_target (kind : OverrideKind) (s : State) :
    (devicePush kind s).vd = { s.vd with target := (devicePush kind s).vd.target } := by
  rcases devicePush_vd kind s with same | target
  · rw [same]
  · rw [target]

/-- A base setpoint handed on behind a device's push is one handed on before it. -/
theorem handSetpoint_devicePush (kind : OverrideKind) (v : Word16) (lead : Bool) (s : State) :
    let pushed := devicePush kind { s with vd := { s.vd with baseSetpoint := v, lead } }
    giveLead lead (handSetpoint v (devicePush kind s)) = withStack pushed pushed.ovs.stack := by
  intro pushed
  obtain ⟨ovs, pp⟩ : pushed.ovs = (devicePush kind s).ovs ∧ pushed.pp = (devicePush kind s).pp :=
    devicePush_of_setpoint kind v lead s
  have target : (targetOf (governingEntry pushed.ovs.stack) v s.valveCapacity).getD pushed.vd.target =
      (targetOf (governingEntry pushed.ovs.stack) v s.valveCapacity).getD s.vd.target := retarget_devicePush kind _ v
  have right : withStack pushed pushed.ovs.stack =
      { s with
        ovs := pushed.ovs
        pp := pushed.pp
        vd :=
          { s.vd with
            baseSetpoint := v, lead
            target := (targetOf (governingEntry pushed.ovs.stack) v s.valveCapacity).getD pushed.vd.target } } :=
    withStack_of_shape (stackWork_devicePush kind _).shape (devicePush_vd_target kind _)
  rw [right, target, ovs, pp,
    handSetpoint_of_shape v lead (stackWork_devicePush kind s).shape (devicePush_vd_target kind s), retarget_devicePush]

theorem restingSetpoint_devicePush (kind : OverrideKind) (s : State) :
    (devicePush kind s).restingSetpoint = s.restingSetpoint := by
  unfold State.restingSetpoint State.valveCapacity State.profileWord
  rw [(stackWork_devicePush kind s).role, (stackWork_devicePush kind s).pp]

/-- REJOIN pushes its entry before it hands the resting setpoint on (R115). -/
theorem performRejoin_eq_rejoined (s : State) : performRejoin s = rejoined s := by
  unfold performRejoin
  dsimp only
  rw [restingSetpoint_devicePush, restingSetpoint_eq, handSetpoint_devicePush]
  rfl

theorem settle_eq_afterFailures (s : State) : settle s = afterFailures s := by
  unfold settle afterFailures
  rw [performRejoin_eq_rejoined]
  rfl

end Sys2Proof.Terms
end

section
/-! SUPPORT. What an offer to the Link Controller comes to, case by case (R29 to R33), and what the loss of a frame
means to its originator (R28, R31); with them the statement about a full queue. -/

namespace Sys2Proof.Offers

open Sys2Proof.Machine Sys2Proof.Safety Sys2Proof.Laws Sys2Proof.Terms

/-! Admission (R33). -/

/-- The node is in rounds and not muted: its LC admits every kind. -/
theorem admits_of_inRounds {join : JoinState} {muted : Bool} (rounds : join = .joined ∨ join = .diverged)
    (unmuted : muted = false) (body : FrameBody) : admits join muted body = true := by
  subst unmuted
  rcases rounds with rfl | rfl <;> rfl

/-- Outside the rounds a kind that a LISTENING node may not send is refused. -/
theorem admits_of_outside {join : JoinState} (outside : join = .profile ∨ join = .listening ∨ join = .muted)
    (muted : Bool) {body : FrameBody} (h : listeningFrame body = false) : admits join muted body = false := by
  rcases outside with rfl | rfl | rfl
  · cases muted <;> rfl
  · cases body with
    | announce role => simp [listeningFrame] at h
    | ask server attempt => simp [listeningFrame] at h
    | _ => cases muted <;> rfl
  · cases muted <;> rfl

theorem inRounds_eq_true_iff (j : JoinState) : inRounds j = true ↔ j = .joined ∨ j = .diverged := by
  cases j <;> simp [inRounds]

theorem inRounds_eq_false {j : JoinState} (h : ¬ (j = .joined ∨ j = .diverged)) : inRounds j = false := by
  rw [← inRounds_eq_true_iff] at h
  exact Bool.eq_false_iff.2 h

/-! Waiting frames replaced. -/

theorem frontFrames_withWaiting {lc : LinkController} (h : lc.onLine.isSome = true → lc.queue ≠ [])
    (w : List QueuedFrame) : frontFrames (withWaiting lc w) = frontFrames lc := by
  unfold frontFrames withWaiting frontFrames
  cases line : lc.onLine with
  | none => rfl
  | some l =>
    obtain ⟨q, rest, queue⟩ := List.exists_cons_of_ne_nil (h (by rw [line]; rfl))
    simp [queue]

theorem waitingFrames_withWaiting {lc : LinkController} (h : lc.onLine.isSome = true → lc.queue ≠ [])
    (w : List QueuedFrame) : waitingFrames (withWaiting lc w) = w := by
  unfold waitingFrames withWaiting frontFrames
  cases line : lc.onLine with
  | none => rfl
  | some l =>
    obtain ⟨q, rest, queue⟩ := List.exists_cons_of_ne_nil (h (by rw [line]; rfl))
    simp [queue]

theorem frontFrames_map (lc : LinkController) (f : QueuedFrame → QueuedFrame) :
    frontFrames { lc with queue := lc.queue.map f } = (frontFrames lc).map f := by
  unfold frontFrames
  dsimp only
  split <;> simp

theorem waitingFrames_map (lc : LinkController) (f : QueuedFrame → QueuedFrame) :
    waitingFrames { lc with queue := lc.queue.map f } = (waitingFrames lc).map f := by
  unfold waitingFrames
  dsimp only
  split <;> simp

/-- A frame placed among frames that a change of no class has met. -/
theorem placeFrame_map {q : QueuedFrame} {f : QueuedFrame → QueuedFrame} (body : ∀ x, (f x).body = x.body)
    (own : f q = q) (w : List QueuedFrame) : placeFrame q (w.map f) = (placeFrame q w).map f := by
  have class_f : ∀ x, ofClass .head (f x) = ofClass .head x := fun x => by simp [ofClass, body]
  unfold placeFrame
  split <;> simp [List.filter_map, Function.comp_def, class_f, own]

/-- A frame placed among those that a test leaves. -/
theorem placeFrame_filter {q : QueuedFrame} {p : QueuedFrame → Bool} (own : p q = true) (w : List QueuedFrame) :
    placeFrame q (w.filter p) = (placeFrame q w).filter p := by
  unfold placeFrame
  split <;> simp [own, Bool.and_comm]

/-! A frame placed, and what the node does besides. -/

/-- The node with a frame placed among those that wait (R29). -/
def placed (q : QueuedFrame) (s : State) : State := setWaiting (placeFrame q (waitingFrames s.lc)) s

theorem placed_setWaiting {s : State} (h : s.lc.onLine.isSome = true → s.lc.queue ≠ []) (q : QueuedFrame)
    (w : List QueuedFrame) : placed q (setWaiting w s) = setWaiting (placeFrame q w) s := by
  have waiting : waitingFrames (setWaiting w s).lc = w := waitingFrames_withWaiting h w
  have front : frontFrames (setWaiting w s).lc = frontFrames s.lc := frontFrames_withWaiting h w
  unfold placed
  rw [waiting]
  unfold setWaiting at front ⊢
  unfold withWaiting at front ⊢
  rw [front]
  rfl

theorem placed_untrack {p : FrameBody → Bool} {q : QueuedFrame} (h : p q.body = false) (s : State) :
    placed q (untrack p s) = untrack p (placed q s) := by
  let f : QueuedFrame → QueuedFrame := fun q => if p q.body then { q with tracked := false } else q
  have own : f q = q := if_neg (by simp [h])
  have body : ∀ x, (f x).body = x.body := fun x => by simp only [f]; split <;> rfl
  have waiting : waitingFrames (untrack p s).lc = (waitingFrames s.lc).map f := waitingFrames_map s.lc f
  have front : frontFrames (untrack p s).lc = (frontFrames s.lc).map f := frontFrames_map s.lc f
  have queue : frontFrames (untrack p s).lc ++ placeFrame q (waitingFrames (untrack p s).lc) =
      (frontFrames s.lc ++ placeFrame q (waitingFrames s.lc)).map f := by
    rw [front, waiting, placeFrame_map body own, List.map_append]
  unfold placed setWaiting withWaiting
  rw [queue]
  rfl

theorem placed_withdrawWaiting {p : QueuedFrame → Bool} {q : QueuedFrame} (h : p q = false) {s : State}
    (line : s.lc.onLine.isSome = true → s.lc.queue ≠ []) :
    placed q (withdrawWaiting p s) = withdrawWaiting p (placed q s) := by
  have waiting : waitingFrames (placed q s).lc = placeFrame q (waitingFrames s.lc) := waitingFrames_withWaiting line _
  have front : frontFrames (placed q s).lc = frontFrames s.lc := frontFrames_withWaiting line _
  have left : placed q (withdrawWaiting p s) =
      setWaiting (placeFrame q ((waitingFrames s.lc).filter fun x => !p x)) s := placed_setWaiting line q _
  rw [left, placeFrame_filter (by simp [h])]
  unfold withdrawWaiting withWaiting
  rw [waiting, front]
  rfl

theorem placed_attemptFail {q : QueuedFrame} (h : isAsk q.body = false) (s : State) :
    placed q (attemptFail s) = attemptFail (placed q s) := by
  have untracked := placed_untrack h (s.setTtu (idleTransfer (s.ttu.attempts + 1)))
  exact congrArg (raiseEvent .transferFailed) untracked

theorem placed_servingEnd {q : QueuedFrame} (h : isBlock q.body = false) {s : State}
    (line : s.lc.onLine.isSome = true → s.lc.queue ≠ []) :
    placed q (servingEnd s) = servingEnd (placed q s) := by
  let u := untrack isBlock (withdrawWaiting (fun q => q.tracked && isBlock q.body) s)
  have untracked : placed q u =
      untrack isBlock (withdrawWaiting (fun q => q.tracked && isBlock q.body) (placed q s)) := by
    rw [placed_untrack h, placed_withdrawWaiting (by simp [h]) line]
  have idle : placed q (servingEnd s) = (placed q u).setTtu { s.ttu with phase := .idle } := rfl
  rw [idle, untracked]
  rfl

/-- A frame of another class is placed whether or not the originator of the displaced one has been told. -/
theorem placed_discardNotice {q : QueuedFrame} (h : ofClass .ordinary q = false) (x : QueuedFrame) {s : State}
    (line : s.lc.onLine.isSome = true → s.lc.queue ≠ []) :
    placed q (discardNotice x s) = discardNotice x (placed q s) := by
  have noAsk : isAsk q.body = false := by
    revert h; unfold ofClass; cases q.body <;> simp [frameClass, isAsk]
  have noBlock : isBlock q.body = false := by
    revert h; unfold ofClass; cases q.body <;> simp [frameClass, isBlock]
  have told : ∀ (c : Bool) (f : State → State), placed q (f s) = f (placed q s) →
      placed q (if c then f s else s) = if c then f (placed q s) else placed q s := by
    intro c f hf
    cases c
    · rfl
    · exact hf
  obtain ⟨body, originator, tracked, collisions⟩ := x
  cases body with
  | claim b => exact told tracked demandNotTaken rfl
  | ask server attempt =>
    exact told (tracked && isAsked s.ttu.phase) attemptFail (placed_attemptFail noAsk s)
  | blockHeader a n st c r d => exact told tracked servingEnd (placed_servingEnd noBlock line)
  | blockData a n i bytes => exact told tracked servingEnd (placed_servingEnd noBlock line)
  | trip => cases originator <;> rfl
  | clear target => cases originator <;> rfl
  | announce role => rfl
  | status b => rfl
  | mark => rfl
  | yield tier => rfl
  | duty action => rfl

/-! The newest ordinary frame. -/

theorem displaceNewest_eq_none_iff (w : List QueuedFrame) :
    displaceNewest w = none ↔ ∀ x ∈ w, ofClass .ordinary x = false := by
  induction w with
  | nil => simp [displaceNewest]
  | cons a l ih =>
    rw [displaceNewest]
    cases found : displaceNewest l with
    | some p =>
      have notAll : ¬ ∀ x ∈ l, ofClass .ordinary x = false := fun h => by simp [ih.2 h] at found
      simp only [reduceCtorEq, false_iff, List.mem_cons, forall_eq_or_imp, not_and]
      exact fun _ => notAll
    | none =>
      have all := ih.1 found
      cases ordinary : ofClass .ordinary a <;> simp [ordinary]
      exact all

theorem displaceNewest_append {above below : List QueuedFrame} {x : QueuedFrame} (ordinary : ofClass .ordinary x = true)
    (newest : ∀ y ∈ below, ofClass .ordinary y = false) :
    displaceNewest (above ++ x :: below) = some (x, above ++ below) := by
  induction above with
  | nil =>
    rw [List.nil_append, displaceNewest, (displaceNewest_eq_none_iff below).2 newest]
    simp only [ordinary, if_true, List.nil_append]
  | cons a l ih => rw [List.cons_append, displaceNewest, ih, List.cons_append]

/-! The offer (R29 to R33). -/

theorem offerFrame_of_refused {q : QueuedFrame} {s : State} (h : admits s.ae.join s.lc.muted q.body = false) :
    offerFrame q s = (false, s) := by
  unfold offerFrame
  exact if_pos h

/-- A frame that neither merges nor replaces needs room. -/
theorem offerFrame_eq_offerWithRoom {q : QueuedFrame} {s : State}
    (admitted : admits s.ae.join s.lc.muted q.body = true)
    (noMerge : ¬ (ofClass .mark q = true ∧ ∃ x ∈ s.lc.queue, ofClass .mark x = true))
    (noReplace : ¬ (ofClass .status q = true ∧ ∃ x ∈ waitingFrames s.lc, ofClass .status x = true)) :
    offerFrame q s = offerWithRoom q s := by
  unfold offerFrame
  rw [if_neg (by simp [admitted])]
  split
  · rename_i mark
    exact if_neg fun any => noMerge ⟨by simp [ofClass, mark], by simpa using any⟩
  · rename_i status
    exact if_neg fun any => noReplace ⟨by simp [ofClass, status], by simpa using any⟩
  · rfl
  · rfl

theorem offerFrame_merges {q : QueuedFrame} {s : State} (admitted : admits s.ae.join s.lc.muted q.body = true)
    (mark : ofClass .mark q = true) (h : ∃ x ∈ s.lc.queue, ofClass .mark x = true) : offerFrame q s = (true, s) := by
  unfold offerFrame
  rw [if_neg (by simp [admitted]), of_decide_eq_true mark]
  exact if_pos (by simpa using h)

theorem offerFrame_replaces {q : QueuedFrame} {s : State} (admitted : admits s.ae.join s.lc.muted q.body = true)
    (status : ofClass .status q = true) (h : ∃ x ∈ waitingFrames s.lc, ofClass .status x = true) :
    offerFrame q s =
      (true, requeued s ((waitingFrames s.lc).filter (fun x => !ofClass .status x) ++ [q])) := by
  have tail := placeFrame_tail (q := q) (.inl (of_decide_eq_true status))
  unfold offerFrame
  rw [if_neg (by simp [admitted]), of_decide_eq_true status]
  dsimp only
  rw [if_pos (by simpa using h), tail]
  rfl

theorem offerWithRoom_of_room {q : QueuedFrame} {s : State} (room : s.lc.queue.length < 8) :
    offerWithRoom q s = (true, requeued s (placeFrame q (waitingFrames s.lc))) := by
  unfold offerWithRoom
  exact if_pos room

/-- An ordinary frame displaces nothing, and a frame of another class nothing but an ordinary one (R31). -/
theorem offerWithRoom_refused {q : QueuedFrame} {s : State} (full : 8 ≤ s.lc.queue.length)
    (h : ofClass .ordinary q = true ∨ ∀ x ∈ waitingFrames s.lc, ofClass .ordinary x = false) :
    offerWithRoom q s = (false, refusedFull s q.body) := by
  have noRoom : ¬ s.lc.queue.length < queueCapacity := Nat.not_lt.2 full
  unfold offerWithRoom
  rw [if_neg noRoom, ← refuseFull_eq_refusedFull]
  rcases h with ordinary | none_waits
  · exact if_pos (of_decide_eq_true ordinary)
  · rw [(displaceNewest_eq_none_iff _).2 none_waits]
    exact ite_self _

/-- A frame of another class displaces the newest ordinary one, whose originator is told (R31). -/
theorem offerWithRoom_displaces {q x : QueuedFrame} {s : State} {above below : List QueuedFrame}
    (full : 8 ≤ s.lc.queue.length) (other : ofClass .ordinary q = false)
    (waiting : waitingFrames s.lc = above ++ x :: below) (ordinary : ofClass .ordinary x = true)
    (newest : ∀ y ∈ below, ofClass .ordinary y = false) :
    offerWithRoom q s =
      (true, discardNotice x
        (raised (discarded (requeued s (placeFrame q (above ++ below)))) .notTaken)) := by
  have noRoom : ¬ s.lc.queue.length < queueCapacity := Nat.not_lt.2 full
  have nonempty : s.lc.queue ≠ [] := fun empty => by simp [empty] at full
  have line : (setWaiting (above ++ below) s).lc.onLine.isSome = true → (setWaiting (above ++ below) s).lc.queue ≠ [] := by
    intro (onLine : s.lc.onLine.isSome = true)
    change frontFrames s.lc ++ _ ≠ []
    unfold frontFrames
    rw [if_pos onLine]
    obtain ⟨a, l, queue⟩ := List.exists_cons_of_ne_nil nonempty
    simp [queue]
  have place : placed q (displaceFrame x (above ++ below) s) =
      discardNotice x (raiseEvent .notTaken (countDiscard (setWaiting (placeFrame q (above ++ below)) s))) := by
    rw [← placed_setWaiting (fun _ => nonempty)]
    exact placed_discardNotice other x line
  unfold offerWithRoom
  rw [if_neg noRoom, if_neg (of_decide_eq_false other), waiting, displaceNewest_append ordinary newest]
  exact congrArg (Prod.mk true) place

/-! By the class of the frame. -/

theorem offerFrame_ordinary_of_room {q : QueuedFrame} {s : State} (admitted : admits s.ae.join s.lc.muted q.body = true)
    (ordinary : frameClass q.body = .ordinary) (room : s.lc.queue.length < 8) :
    offerFrame q s = (true, requeued s (waitingFrames s.lc ++ [q])) := by
  rw [offerFrame_eq_offerWithRoom admitted (by simp [ofClass, ordinary]) (by simp [ofClass, ordinary]),
    offerWithRoom_of_room room, placeFrame_tail (.inr ordinary)]

theorem offerFrame_ordinary_of_full {q : QueuedFrame} {s : State} (admitted : admits s.ae.join s.lc.muted q.body = true)
    (ordinary : frameClass q.body = .ordinary) (full : 8 ≤ s.lc.queue.length) :
    offerFrame q s = (false, refusedFull s q.body) := by
  rw [offerFrame_eq_offerWithRoom admitted (by simp [ofClass, ordinary]) (by simp [ofClass, ordinary]),
    offerWithRoom_refused full (.inl (by simp [ofClass, ordinary]))]

theorem offerFrame_head_of_room {q : QueuedFrame} {s : State} (admitted : admits s.ae.join s.lc.muted q.body = true)
    (head : frameClass q.body = .head) (room : s.lc.queue.length < 8) :
    offerFrame q s = (true, requeued s (behindHead q (waitingFrames s.lc))) := by
  rw [offerFrame_eq_offerWithRoom admitted (by simp [ofClass, head]) (by simp [ofClass, head]),
    offerWithRoom_of_room room, placeFrame_behindHead (.inl head)]

theorem offerFrame_head_of_full {q : QueuedFrame} {s : State} (admitted : admits s.ae.join s.lc.muted q.body = true)
    (head : frameClass q.body = .head) (full : 8 ≤ s.lc.queue.length)
    (none_waits : ∀ x ∈ waitingFrames s.lc, ofClass .ordinary x = false) :
    offerFrame q s = (false, refusedFull s q.body) := by
  rw [offerFrame_eq_offerWithRoom admitted (by simp [ofClass, head]) (by simp [ofClass, head]),
    offerWithRoom_refused full (.inr none_waits)]

/-- Where an ordinary frame waits at a full queue, a frame of the head class is admitted. -/
theorem offerFrame_head_of_ordinary {q : QueuedFrame} {s : State} (admitted : admits s.ae.join s.lc.muted q.body = true)
    (head : frameClass q.body = .head) (waits : ∃ x ∈ waitingFrames s.lc, ofClass .ordinary x = true) :
    (offerFrame q s).1 = true := by
  obtain ⟨x, mem, ordinary⟩ := waits
  have found : displaceNewest (waitingFrames s.lc) ≠ none := fun none_found => by
    simp [(displaceNewest_eq_none_iff _).1 none_found x mem] at ordinary
  rw [offerFrame_eq_offerWithRoom admitted (by simp [ofClass, head]) (by simp [ofClass, head])]
  unfold offerWithRoom
  split
  · rfl
  · rw [if_neg (by simp [head])]
    split
    · rename_i none_found
      exact absurd none_found found
    · rfl

theorem no_mark_of_bodies {w : List QueuedFrame} (h : ∀ x ∈ w, x.body ≠ .mark) :
    ¬ ∃ x ∈ w, ofClass .mark x = true := by
  rintro ⟨x, mem, class_x⟩
  refine h x mem ?_
  revert class_x
  unfold ofClass
  cases x.body <;> simp [frameClass]

theorem offerFrame_mark_of_room {q : QueuedFrame} {s : State} (admitted : admits s.ae.join s.lc.muted q.body = true)
    (mark : frameClass q.body = .mark) (none_queued : ∀ x ∈ s.lc.queue, x.body ≠ .mark)
    (room : s.lc.queue.length < 8) :
    offerFrame q s = (true, requeued s (behindHead q (waitingFrames s.lc))) := by
  rw [offerFrame_eq_offerWithRoom admitted (fun h => no_mark_of_bodies none_queued h.2) (by simp [ofClass, mark]),
    offerWithRoom_of_room room, placeFrame_behindHead (.inr mark)]

theorem offerFrame_mark_of_full {q : QueuedFrame} {s : State} (admitted : admits s.ae.join s.lc.muted q.body = true)
    (mark : frameClass q.body = .mark) (none_queued : ∀ x ∈ s.lc.queue, x.body ≠ .mark)
    (full : 8 ≤ s.lc.queue.length) (none_waits : ∀ x ∈ waitingFrames s.lc, ofClass .ordinary x = false) :
    offerFrame q s = (false, refusedFull s q.body) := by
  rw [offerFrame_eq_offerWithRoom admitted (fun h => no_mark_of_bodies none_queued h.2) (by simp [ofClass, mark]),
    offerWithRoom_refused full (.inr none_waits)]

/-! The loss told to the originator (R28, R31). -/

theorem isAsked_eq_true_iff (p : TransferPhase) : isAsked p = true ↔ ∃ server attempt, p = .asked server attempt := by
  cases p <;> simp [isAsked]

/-- What the AE keeps of a frame lost to it: the demand of its CLAIM, the mark of its ANNOUNCE, a TRIP or CLEAR of the
EIU (R66, R122, R146, R148). -/
def lossNoted (q : QueuedFrame) (a : AllocationEngine) : AllocationEngine :=
  match q.body, q.tracked, q.originator with
  | .claim _, true, _ => if a.demand.stage = .queued then { a with demand := { stage := .idle, outcome := .notTaken } } else a
  | .announce _, _, _ => { a with announced := false }
  | .trip, _, .eiu => { a with hold := a.hold ++ [.trip] }
  | .clear target, _, .eiu => { a with hold := a.hold ++ [.clear target] }
  | _, _, _ => a

theorem demandNotTaken_eq (s : State) :
    demandNotTaken s =
      s.setAe
        (if s.ae.demand.stage = .queued then { s.ae with demand := { stage := .idle, outcome := .notTaken } }
        else s.ae) := by
  unfold demandNotTaken
  split <;> rfl

/-- A loss that neither fails an attempt nor ends SERVING is the AE's alone. -/
theorem discardNotice_eq_lossNoted {q : QueuedFrame} {s : State}
    (h : ¬ (q.tracked = true ∧
      (isAsk q.body = true ∧ (∃ server attempt, s.ttu.phase = .asked server attempt) ∨ isBlock q.body = true))) :
    discardNotice q s = s.setAe (lossNoted q s.ae) := by
  obtain ⟨body, originator, tracked, collisions⟩ := q
  cases body with
  | claim b =>
    cases tracked with
    | false => rfl
    | true => exact demandNotTaken_eq s
  | ask server attempt =>
    have notFollowed : ¬ (tracked && isAsked s.ttu.phase) = true := fun both => by
      obtain ⟨followed, asked⟩ := Bool.and_eq_true_iff.1 both
      exact h ⟨followed, .inl ⟨rfl, (isAsked_eq_true_iff _).1 asked⟩⟩
    exact if_neg notFollowed
  | blockHeader a n st c r d => exact if_neg fun followed => h ⟨followed, .inr rfl⟩
  | blockData a n i bytes => exact if_neg fun followed => h ⟨followed, .inr rfl⟩
  | trip => cases originator <;> rfl
  | clear target => cases originator <;> rfl
  | announce role => rfl
  | status b => rfl
  | mark => rfl
  | yield tier => rfl
  | duty action => rfl

/-- The loss of the ASK that an ASKED TTU follows fails the attempt (R107). -/
theorem discardNotice_ask {q : QueuedFrame} {s : State} (followed : q.tracked = true) (ask : isAsk q.body = true)
    (asked : ∃ server attempt, s.ttu.phase = .asked server attempt) : discardNotice q s = attemptFailed s := by
  have both : (q.tracked && isAsked s.ttu.phase) = true := by rw [followed, (isAsked_eq_true_iff _).2 asked]; rfl
  unfold discardNotice
  revert ask
  cases q.body <;> simp [isAsk, both]
  rfl

/-- The loss of the block that the server follows ends SERVING (R109). -/
theorem discardNotice_block {q : QueuedFrame} {s : State} (followed : q.tracked = true) (block : isBlock q.body = true) :
    discardNotice q s = servingOver s := by
  unfold discardNotice
  revert block
  cases q.body <;> simp [isBlock, followed] <;> rfl

/-! R30, R31. -/

/-- The notices of an ordinary frame's loss; it is no TRIP or CLEAR. -/
theorem lossNoted_ordinary {x : QueuedFrame} (ordinary : ofClass .ordinary x = true) (a : AllocationEngine) :
    lossNoted x a =
      match x.body, x.tracked with
      | .claim _, true =>
        if a.demand.stage = .queued then { a with demand := { stage := .idle, outcome := .notTaken } } else a
      | .announce _, _ => { a with announced := false }
      | _, _ => a := by
  obtain ⟨body, originator, tracked, collisions⟩ := x
  cases body with
  | trip => simp [ofClass, frameClass] at ordinary
  | clear target => simp [ofClass, frameClass] at ordinary
  | _ => cases tracked <;> rfl

/-- The place of a frame that displaced another. -/
theorem placeFrame_eq_ite {q : QueuedFrame} (other : ofClass .ordinary q = false) (w : List QueuedFrame) :
    placeFrame q w = if ofClass .status q = true then w ++ [q] else behindHead q w := by
  unfold ofClass at other ⊢
  cases kind : frameClass q.body with
  | head => exact placeFrame_behindHead (.inl kind) w
  | mark => exact placeFrame_behindHead (.inr kind) w
  | status => exact placeFrame_tail (.inl kind) w
  | ordinary => simp [kind] at other

/-- Settles O10, by the branches of the offer. -/
theorem fullQueueDisplaces : Obligations.FullQueueDisplaces := by
  unfold Obligations.FullQueueDisplaces
  intro s q admitted full waiting merges replaces
  refine ⟨fun ⟨mark, h⟩ => offerFrame_merges admitted mark h,
    fun ⟨status, h⟩ => offerFrame_replaces admitted status h, fun noMerge noReplace h => ?_,
    fun noMerge noReplace other above x below split ordinary newest => ?_⟩
  · rw [offerFrame_eq_offerWithRoom admitted noMerge noReplace, offerWithRoom_refused full h]
  · have displaced := offerWithRoom_displaces full other split ordinary newest
    rw [← offerFrame_eq_offerWithRoom admitted noMerge noReplace, placeFrame_eq_ite other] at displaced
    refine ⟨fun h => ?_, fun followed ask asked => ?_, fun followed block => ?_⟩
    · rw [displaced]
      refine congrArg (Prod.mk true) ((discardNotice_eq_lossNoted (by exact h)).trans ?_)
      rw [lossNoted_ordinary ordinary]
      rfl
    · rw [displaced]
      exact congrArg (Prod.mk true) (discardNotice_ask followed ask asked)
    · rw [displaced]
      exact congrArg (Prod.mk true) (discardNotice_block followed block)

end Sys2Proof.Offers
end

section
/-! SUPPORT. Changes that the Link Controller's work passes by, the frames at the queue's tail, and the statements about
the timers of the node (R37, R118, R123). -/

namespace Sys2Proof.Timers

open Sys2Proof.Machine Sys2Proof.Safety Sys2Proof.Laws Sys2Proof.Terms Sys2Proof.Offers

/-! A change that the Link Controller's work passes by. -/

/-- A change of the node that neither reads nor alters what an offer works on. -/
structure Passes (change : State → State) : Prop where
  lc : ∀ s, (change s).lc = s.lc
  ttu : ∀ s, (change s).ttu = s.ttu
  join : ∀ s, (change s).ae.join = s.ae.join
  setLc : ∀ s x, change (s.setLc x) = (change s).setLc x
  setTtu : ∀ s x, change (s.setTtu x) = (change s).setTtu x
  raise : ∀ s e, change (raiseEvent e s) = raiseEvent e (change s)
  demand : ∀ s, change (demandNotTaken s) = demandNotTaken (change s)
  announce : ∀ s, change (announceLost s) = announceLost (change s)
  hold : ∀ s h, change (holdFrame h s) = holdFrame h (change s)

theorem passes_emptyHolding : Passes emptyHolding where
  lc _ := rfl
  ttu _ := rfl
  join _ := rfl
  setLc _ _ := rfl
  setTtu _ _ := rfl
  raise _ _ := rfl
  demand _ := rfl
  announce _ := rfl
  hold _ _ := rfl

/-- The latched record of the AE replaced (R153). -/
def latch (figures : Channels) (s : State) : State := s.setAe { s.ae with latched := figures }

theorem passes_latch (figures : Channels) : Passes (latch figures) where
  lc _ := rfl
  ttu _ := rfl
  join _ := rfl
  setLc _ _ := rfl
  setTtu _ _ := rfl
  raise _ _ := rfl
  demand _ := rfl
  announce _ := rfl
  hold _ _ := rfl

section
variable {change : State → State} (pass : Passes change)
include pass

theorem setWaiting_change (w : List QueuedFrame) (s : State) :
    setWaiting w (change s) = change (setWaiting w s) := by
  unfold setWaiting
  rw [pass.setLc, pass.lc]

theorem countDiscard_change (s : State) : countDiscard (change s) = change (countDiscard s) := by
  unfold countDiscard
  rw [pass.setLc, pass.lc]

theorem refuseFull_change (q : QueuedFrame) (s : State) : refuseFull q (change s) = change (refuseFull q s) := by
  unfold refuseFull raiseIf
  split
  · rw [pass.raise, countDiscard_change pass]
  · exact countDiscard_change pass s

theorem untrack_change (p : FrameBody → Bool) (s : State) : untrack p (change s) = change (untrack p s) := by
  unfold untrack
  rw [pass.setLc, pass.lc]

theorem attemptFail_change (s : State) : attemptFail (change s) = change (attemptFail s) := by
  unfold attemptFail
  rw [pass.raise, ← untrack_change pass, pass.setTtu, pass.ttu]

theorem servingEnd_change (s : State) : servingEnd (change s) = change (servingEnd s) := by
  unfold servingEnd withdrawWaiting
  dsimp only
  rw [pass.lc, ← pass.setLc, untrack_change pass, pass.ttu, pass.setTtu]

theorem discardNotice_change (q : QueuedFrame) (s : State) :
    discardNotice q (change s) = change (discardNotice q s) := by
  have told : ∀ (c : Bool) (f : State → State), f (change s) = change (f s) →
      (if c then f (change s) else change s) = change (if c then f s else s) := by
    intro c f hf
    cases c
    · rfl
    · exact hf
  obtain ⟨body, originator, tracked, collisions⟩ := q
  cases body with
  | claim b => exact told tracked demandNotTaken (pass.demand s).symm
  | ask server attempt =>
    unfold discardNotice
    rw [pass.ttu]
    exact told _ attemptFail (attemptFail_change pass s)
  | blockHeader a n st c r d => exact told tracked servingEnd (servingEnd_change pass s)
  | blockData a n i bytes => exact told tracked servingEnd (servingEnd_change pass s)
  | trip => cases originator with
    | eiu => exact (pass.hold s .trip).symm
    | _ => rfl
  | clear target => cases originator with
    | eiu => exact (pass.hold s (.clear target)).symm
    | _ => rfl
  | announce role => exact (pass.announce s).symm
  | status b => rfl
  | mark => rfl
  | yield tier => rfl
  | duty action => rfl

theorem displaceFrame_change (x : QueuedFrame) (rest : List QueuedFrame) (s : State) :
    displaceFrame x rest (change s) = change (displaceFrame x rest s) := by
  unfold displaceFrame
  rw [setWaiting_change pass, countDiscard_change pass, ← pass.raise, discardNotice_change pass]

theorem offerWithRoom_change (q : QueuedFrame) (s : State) :
    offerWithRoom q (change s) = ((offerWithRoom q s).1, change (offerWithRoom q s).2) := by
  unfold offerWithRoom
  rw [pass.lc, setWaiting_change pass, refuseFull_change pass]
  split
  · rfl
  · split
    · rfl
    · split
      · rfl
      · dsimp only
        rw [displaceFrame_change pass, pass.lc, setWaiting_change pass]

/-- An offer comes to the same before the change and after it. -/
theorem offerFrame_change (q : QueuedFrame) (s : State) :
    offerFrame q (change s) = ((offerFrame q s).1, change (offerFrame q s).2) := by
  unfold offerFrame
  rw [pass.lc, pass.join, setWaiting_change pass, offerWithRoom_change pass]
  split
  · rfl
  · split
    · split <;> rfl
    · split <;> rfl
    · rfl
    · rfl

end

/-! The tail of the queue. -/

/-- The node with a frame at the tail of its queue. -/
def appended (q : QueuedFrame) (s : State) : State := s.setLc { s.lc with queue := s.lc.queue ++ [q] }

theorem requeued_tail (q : QueuedFrame) (s : State) : requeued s (waitingFrames s.lc ++ [q]) = appended q s := by
  unfold requeued appended
  rw [← List.append_assoc, front_append_waiting]
  rfl

theorem offerFrame_ordinary_tail {q : QueuedFrame} {s : State} (admitted : admits s.ae.join s.lc.muted q.body = true)
    (ordinary : frameClass q.body = .ordinary) (room : s.lc.queue.length < 8) :
    offerFrame q s = (true, appended q s) := by
  rw [offerFrame_ordinary_of_room admitted ordinary room, requeued_tail]

/-- A STATUS where none is queued joins the tail as well. -/
theorem offerFrame_status_tail {q : QueuedFrame} {s : State} (admitted : admits s.ae.join s.lc.muted q.body = true)
    (status : frameClass q.body = .status) (none_queued : ∀ x ∈ s.lc.queue, ofClass .status x = false)
    (room : s.lc.queue.length < 8) : offerFrame q s = (true, appended q s) := by
  have noStatus : ¬ ∃ x ∈ waitingFrames s.lc, ofClass .status x = true := by
    rintro ⟨x, mem, isStatus⟩
    have queued : x ∈ s.lc.queue := by
      rw [← front_append_waiting s.lc]
      exact List.mem_append_right _ mem
    simp [none_queued x queued] at isStatus
  rw [offerFrame_eq_offerWithRoom admitted (by simp [ofClass, status]) (fun h => noStatus h.2),
    offerWithRoom_of_room room, placeFrame_tail (.inl status), requeued_tail]

/-- Where no frame of the head class waits, the place behind them is in front. -/
theorem behindHead_of_none {w : List QueuedFrame} (h : ∀ x ∈ w, ofClass .head x = false) (q : QueuedFrame) :
    behindHead q w = q :: w := by
  have none_head : w.filter (ofClass .head) = [] := List.filter_eq_nil_iff.2 fun x mem => by simp [h x mem]
  have all : (w.filter fun x => !ofClass .head x) = w := List.filter_eq_self.2 fun x mem => by simp [h x mem]
  unfold behindHead
  rw [none_head, all]
  rfl

theorem settle_of_lt {s : State} (h : s.ttu.attempts < 3) : settle s = s := if_neg (Nat.not_le.2 h)

/-! ROUND_TIMER_EXPIRY (R37, R38, R136). -/

theorem expiryNotice_of_ovs {s u : State} (same : u.ovs = s.ovs) :
    expiryNotice u =
      withStack u (s.ovs.stack.map fun e =>
        if e.kind = .rejoinHold ∧ e.void = false then { e with expiries := min 2 (e.expiries + 1) } else e) := by
  unfold expiryNotice
  rw [same]
  rfl

/-- A JOINED or DIVERGED node offers a MARK as its round timer restarts, any other offers none. -/
theorem exec_roundTimerExpiry {s : State} {since : Nat} (running : s.ae.roundTimer = .running since) :
    let now := max s.now (since + 1000000)
    let restarted := { s with now, ae := { s.ae with roundTimer := .running now } }
    exec .roundTimerExpiry s =
      .next (settle (expiryNotice
        (if inRounds s.ae.join then (offerFrame (newFrame .mark .ae) restarted).2 else restarted))) := by
  intro now restarted
  have due : timerDue s.ae.roundTimer roundTime = some (since + 1000000) := by rw [running]; rfl
  change execRoundTimerExpiry s = _
  unfold execRoundTimerExpiry
  rw [due]
  rfl

/-- Settles O42, by what the offer of the MARK comes to. -/
theorem roundTimerExpires : Obligations.RoundTimerExpires := by
  unfold Obligations.RoundTimerExpires
  intro s since running few now restarted mark rounds counted
  have expires := exec_roundTimerExpiry running
  have inRound : ∀ {r : Bool} {t : State}, (s.ae.join = .joined ∨ s.ae.join = .diverged) →
      offerFrame mark restarted = (r, t) → exec .roundTimerExpiry s = .next (settle (expiryNotice t)) := by
    intro r t joined offered
    rw [expires, if_pos ((inRounds_eq_true_iff _).2 joined)]
    exact congrArg (fun p : Bool × State => Host.Outcome.next (settle (expiryNotice p.2))) offered
  have notice : ∀ {u : State}, u.ovs = s.ovs → expiryNotice u = counted u := expiryNotice_of_ovs
  have calm : ∀ {u : State}, u.ovs = s.ovs → u.ttu.attempts < 3 → settle (expiryNotice u) = counted u := by
    intro u same fewer
    rw [notice same]
    exact settle_of_lt fewer
  refine ⟨fun outside => ?_, fun ⟨joined, unmuted, room⟩ none_queued => ?_,
    fun ⟨joined, unmuted⟩ ⟨q, queued, isMark⟩ => ?_, fun ⟨joined, unmuted⟩ none_queued full none_waits => ?_,
    fun ⟨joined, unmuted⟩ => ?_⟩
  · have notInRounds : inRounds s.ae.join = false := by rcases outside with h | h <;> rw [h] <;> rfl
    rw [expires, notInRounds]
    exact congrArg _ (calm (u := restarted) rfl few)
  · rw [inRound joined
      (offerFrame_mark_of_room (admits_of_inRounds joined unmuted _) rfl none_queued room)]
    exact congrArg _ (calm rfl few)
  · have merged := offerFrame_merges (s := restarted) (q := mark) (admits_of_inRounds joined unmuted _) rfl
      ⟨q, queued, by simp [ofClass, isMark, frameClass]⟩
    rw [inRound joined merged]
    exact congrArg _ (calm rfl few)
  · have refused := offerFrame_mark_of_full (q := mark) (s := restarted) (admits_of_inRounds joined unmuted _) rfl
      none_queued full none_waits
    rw [inRound joined refused]
    exact congrArg _ (calm rfl few)
  · rw [inRound joined (t := (offerFrame mark restarted).2) (Prod.mk.eta).symm, settle_eq_afterFailures, notice (queueWork_offerFrame mark restarted).ovs]

/-! SILENCE_TIMER_EXPIRY (R123). -/

/-- The STATUS of a node is not changed by an offer. -/
theorem ownStatus_offerPlain (body : FrameBody) (s : State) : (offerPlain body s).ownStatus = s.ownStatus := by
  obtain ⟨-, role, ovs, -, eiu, -, -, -, -, pp, ae, -, -, -, -⟩ := (queueWork_offerPlain body s).toQueueFrame
  unfold State.ownStatus State.ownFigures State.announcedCapacity State.announcedBurn State.isolating State.dutyAllowed
    State.profileWord
  rw [role, ovs, eiu, pp, ae]

theorem offerPlain_latch (body : FrameBody) (figures : Channels) (s : State) :
    offerPlain body (latch figures s) = latch figures (offerPlain body s) := by
  unfold offerPlain
  rw [offerFrame_change (passes_latch figures)]

theorem latchAndReport_eq (s : State) :
    latchAndReport s = offerPlain (.status (latch s.smp.smoothed s).ownStatus) (latch s.smp.smoothed s) := rfl

/-- The node that has founded, before it offers its frames (R123). -/
def foundedWith (state : Committed) (digest setpoint : Word16) (latched : Channels) (s : State) : State :=
  raised
    (withStack
      { s with
        lc := { s.lc with queue := s.lc.queue.map (unfollowed isAsk) }
        ttu := { phase := .idle, attempts := 0, buffer := [], answerTimer := .stopped, stallTimer := .stopped }
        ae :=
          { s.ae with
            join := .joined, round := 1, roundTimer := .running s.now, silenceTimer := .stopped, journal := []
            committed := state, digest, ownBurn := 0, cap := none, latched }
        vd := { s.vd with baseSetpoint := setpoint, lead := false } }
      s.ovs.stack)
    .joinChange

/-- The same with the cleared committed state, the resting setpoint, and the Sampler's figures latched. -/
def founded (s : State) : State :=
  foundedWith clearedState (stateDigest clearedState)
    (if s.role = .producer ∨ s.role = .store then s.profileWord 2 else 0) s.smp.smoothed s

theorem foundedWith_eq (s : State) (state : Committed) (digest setpoint : Word16) :
    giveLead false (handSetpoint setpoint (raiseEvent .joinChange ((attemptEnd s).setAe
      { (attemptEnd s).ae with
        join := .joined, round := 1, roundTimer := .running (attemptEnd s).now, silenceTimer := .stopped
        journal := [], committed := state, digest, ownBurn := 0, cap := none }))) =
      foundedWith state digest setpoint s.ae.latched s := rfl

theorem latch_foundedWith (s : State) (state : Committed) (digest setpoint : Word16) (old new : Channels) :
    latch new (foundedWith state digest setpoint old s) = foundedWith state digest setpoint new s := rfl

/-- The figures latched before the frames are offered or after are the same. -/
theorem performFounding_eq (s : State) :
    performFounding s =
      offerPlain (.status (founded s).ownStatus) (offerPlain (.announce s.role) (offerPlain .mark (founded s))) := by
  let unlatched := foundedWith clearedState (stateDigest clearedState)
    (if s.role = .producer ∨ s.role = .store then s.profileWord 2 else 0) s.ae.latched s
  have performed : performFounding s =
      latchAndReport (offerPlain (.announce s.role) (offerPlain .mark unlatched)) := by
    unfold performFounding
    dsimp only
    rw [restingSetpoint_eq, foundedWith_eq]
    rfl
  have smoothed : (offerPlain (.announce s.role) (offerPlain .mark unlatched)).smp.smoothed = s.smp.smoothed := by
    rw [(queueWork_offerPlain _ _).smp, (queueWork_offerPlain _ _).smp]
    rfl
  rw [performed, latchAndReport_eq, smoothed, ← offerPlain_latch, ← offerPlain_latch, latch_foundedWith,
    ownStatus_offerPlain, ownStatus_offerPlain]
  rfl

theorem exec_silenceTimerExpiry {s : State} {since : Nat} (running : s.ae.silenceTimer = .running since)
    (listening : s.ae.join = .listening) :
    exec .silenceTimerExpiry s = .next (performFounding { s with now := max s.now (since + 3000000) }) := by
  have due : timerDue s.ae.silenceTimer silenceTime = some (since + 3000000) := by rw [running]; rfl
  change execSilenceTimerExpiry s = _
  unfold execSilenceTimerExpiry
  rw [due]
  exact congrArg _ (if_pos listening)

/-- A frame that a LISTENING node may send is ordinary (R33). -/
theorem ofClass_of_listeningFrame {q : QueuedFrame} (h : listeningFrame q.body = true) {c : FrameClass}
    (other : c ≠ .ordinary) : ofClass c q = false := by
  unfold ofClass
  revert h
  cases q.body <;> simp [listeningFrame, frameClass, other.symm]

/-- With room for all three, the founder's MARK goes in front and the others to the tail. -/
theorem founder_offers {s : State} (joined : s.ae.join = .joined) (unmuted : s.lc.muted = false)
    (listening : ∀ q ∈ s.lc.queue, listeningFrame q.body = true) (room : s.lc.queue.length + 3 ≤ 8) (role : Role)
    (b : StatusBody) :
    offerPlain (.status b) (offerPlain (.announce role) (offerPlain .mark s)) =
      requeued s ([newFrame .mark .ae] ++ waitingFrames s.lc ++
        [newFrame (.announce role) .ae, newFrame (.status b) .ae]) := by
  have waits : ∀ q ∈ waitingFrames s.lc, listeningFrame q.body = true := fun q mem =>
    listening q (by rw [← front_append_waiting s.lc]; exact List.mem_append_right _ mem)
  have noHead : ∀ q ∈ waitingFrames s.lc, ofClass .head q = false := fun q mem =>
    ofClass_of_listeningFrame (waits q mem) (by decide)
  have admitted : ∀ body, admits s.ae.join s.lc.muted body = true := admits_of_inRounds (.inl joined) unmuted
  have noMark : ∀ q ∈ s.lc.queue, q.body ≠ .mark := fun q mem isMark => by
    have := listening q mem
    rw [isMark] at this
    exact absurd this (by decide)
  let marked := requeued s (newFrame .mark .ae :: waitingFrames s.lc)
  have mark : offerPlain .mark s = marked := by
    unfold offerPlain
    rw [offerFrame_mark_of_room (admitted _) rfl noMark (by omega), behindHead_of_none noHead]
  have queue : marked.lc.queue = frontFrames s.lc ++ newFrame .mark .ae :: waitingFrames s.lc := rfl
  have length : marked.lc.queue.length = s.lc.queue.length + 1 := by
    rw [queue, ← length_front s.lc]
    simp
    omega
  have announce : offerPlain (.announce role) marked = appended (newFrame (.announce role) .ae) marked := by
    unfold offerPlain
    rw [offerFrame_ordinary_tail (s := marked) (admitted _) rfl (by omega)]
  let announced := appended (newFrame (.announce role) .ae) marked
  have noStatus : ∀ q ∈ announced.lc.queue, ofClass .status q = false := by
    intro q mem
    have place : q ∈ frontFrames s.lc ∨ q = newFrame .mark .ae ∨ q ∈ waitingFrames s.lc ∨
        q = newFrame (.announce role) .ae := by
      simpa [announced, appended, queue] using mem
    rcases place with front | rfl | waiting | rfl
    · refine ofClass_of_listeningFrame (listening q ?_) (by decide)
      rw [← front_append_waiting s.lc]
      exact List.mem_append_left _ front
    · rfl
    · exact ofClass_of_listeningFrame (waits q waiting) (by decide)
    · rfl
  have status : offerPlain (.status b) announced = appended (newFrame (.status b) .ae) announced := by
    unfold offerPlain
    rw [offerFrame_status_tail (s := announced) (admitted _) rfl noStatus (by simp [announced, appended, length]; omega)]
  rw [mark, announce]
  refine (status).trans ?_
  simp [announced, appended, marked, requeued, State.setLc]

/-- Settles O43: the founder's offers, taken in order. -/
theorem silenceTimerFounds : Obligations.SilenceTimerFounds := by
  unfold Obligations.SilenceTimerFounds
  intro s since running listening now found offered
  have founds : exec .silenceTimerExpiry s =
      .next (offered (.status found.ownStatus) (offered (.announce s.role) (offered .mark found))) := by
    rw [exec_silenceTimerExpiry running listening, performFounding_eq]
    unfold founded stateDigest
    rfl
  refine ⟨founds, fun unmuted frames room => ?_⟩
  have kept : ∀ q ∈ found.lc.queue, listeningFrame q.body = true := by
    intro q mem
    obtain ⟨x, queued, rfl⟩ := List.mem_map.1 mem
    have body : (unfollowed isAsk x).body = x.body := by unfold unfollowed; split <;> rfl
    rw [body]
    exact frames x queued
  have length : found.lc.queue.length + 3 ≤ 8 := by
    change (s.lc.queue.map (unfollowed isAsk)).length + 3 ≤ 8
    rwa [List.length_map]
  have waiting : waitingFrames found.lc = (waitingFrames s.lc).map (unfollowed isAsk) :=
    waitingFrames_map s.lc (unfollowed isAsk)
  rw [founds, ← waiting]
  exact congrArg _ (founder_offers (s := found) rfl unmuted kept length s.role found.ownStatus)

end Sys2Proof.Timers
end

section
/-! SUPPORT. The handler's taking of a held command, and the statements about the profile window and the commands of the
panel that act on the node (R118, R119, R121, R125, R160). -/

namespace Sys2Proof.Panel

open Sys2Proof.Machine Sys2Proof.Safety Sys2Proof.Laws Sys2Proof.Terms Sys2Proof.Offers Sys2Proof.Timers
  Sys2Proof.Enabling

/-! The held command (R156). -/

theorem takeable_of_held {s : State} {w : Word32} (held : Held s w) {code : Nat → Bool}
    (named : code (commandCode w) = true) : s.takeable code = some w := by
  obtain ⟨holding, noReply, noOutcome⟩ := held
  have free : handlerFree s.pp = true := (handlerFree_eq_true_iff s.pp).2 ⟨noReply, noOutcome⟩
  unfold State.takeable
  rw [holding]
  exact if_pos (by rw [named, free]; rfl)

theorem takeHeld_of_held {s : State} {w : Word32} (held : Held s w) {code : Nat} (named : commandCode w = code)
    (command : Word32 → State → State) : takeHeld code command s = command w (emptyHolding s) := by
  unfold takeHeld
  rw [takeable_of_held held (decide_eq_true named)]

theorem stageReply_emptyHolding (reply : Word32) (s : State) : stageReply reply (emptyHolding s) = answered s reply := rfl

theorem refuse_emptyHolding (code : Nat) (r : RefusalStatus) (s : State) :
    refuse code r (emptyHolding s) = answered s (refusedReply code r) := rfl

theorem accept_emptyHolding (code : Nat) (s : State) : accept code (emptyHolding s) = answered s (acceptedReply code 0 0) :=
  rfl

/-! The profile window (R118, R119, R121). -/

theorem windowClosed_emptyHolding (s : State) : windowClosed (emptyHolding s) = emptyHolding (windowClosed s) := rfl

theorem closeWindow_emptyHolding (s : State) : closeWindow (emptyHolding s) = emptyHolding (windowClosed s) := by
  rw [closeWindow_eq_windowClosed, windowClosed_emptyHolding]

theorem loaderOpen_eq_false {s : State} (h : ¬ (s.ae.join = .profile ∧ s.pp.windowOpen = true)) :
    s.loaderOpen = false := Bool.eq_false_iff.2 fun isOpen => h ((loaderOpen_eq_true_iff s).1 isOpen)

/-- Settles O44: the two events that close the window. -/
theorem profileWindowCloses : Obligations.ProfileWindowCloses := by
  unfold Obligations.ProfileWindowCloses
  intro s opened
  refine ⟨fun isOpen => ?_, fun w held named => ?_⟩
  · change execProfileWindowExpiry s = _
    unfold execProfileWindowExpiry
    rw [if_pos ((loaderOpen_eq_true_iff s).2 isOpen), closeWindow_eq_windowClosed]
    rfl
  · have taken : exec .profileDone s = .next (commandProfileDone w (emptyHolding s)) :=
      congrArg _ (takeHeld_of_held held named commandProfileDone)
    rw [taken]
    unfold commandProfileDone
    refine ⟨fun isOpen => ?_, fun shut => ?_⟩
    · have loader : (emptyHolding s).loaderOpen = true := (loaderOpen_eq_true_iff s).2 isOpen
      rw [if_pos loader, closeWindow_emptyHolding]
      rfl
    · have loader : (emptyHolding s).loaderOpen = false := loaderOpen_eq_false shut
      rw [loader]
      rfl

/-- The high byte of a word by its number (R168). -/
theorem toNat_highByte (w : Word16) : (highByte w).toNat = w.toNat / 256 := by
  have := w.isLt
  simp only [highByte, BitVec.toNat_setWidth, BitVec.extractLsb'_toNat, Nat.shiftRight_eq_div_pow]
  omega

/-- The low byte of a word by its number (R168). -/
theorem toNat_lowByte (w : Word16) : (lowByte w).toNat = w.toNat % 256 := by
  simp only [lowByte, BitVec.toNat_setWidth, BitVec.extractLsb'_toNat, Nat.shiftRight_eq_div_pow]
  omega

theorem forall_lt_five (p : Nat → Prop) : (∀ j < 5, p j) ↔ p 0 ∧ p 1 ∧ p 2 ∧ p 3 ∧ p 4 := by
  refine ⟨fun h => ⟨h 0 (by decide), h 1 (by decide), h 2 (by decide), h 3 (by decide), h 4 (by decide)⟩, ?_⟩
  rintro ⟨h0, h1, h2, h3, h4⟩ j small
  interval_cases j <;> assumption

/-- The check of a tier draw, tier by tier (R119). -/
theorem tierAccepted_iff (image : List Word16) {k : Nat} (small : k < 5) (v : Nat) :
    tierAccepted image k v = true ↔ tierFits image k v := by
  unfold tierAccepted tierFits
  simp only [forall_lt_five, imageTiers]
  by_cases zero : v = 0
  · interval_cases k <;> simp [zero, belowHeld]
  · have positive : 1 ≤ v := Nat.one_le_iff_ne_zero.2 zero
    interval_cases k <;> simp [zero, positive, belowHeld, and_assoc]

theorem bandsAccepted_iff (image : List Word16) (v : Word16) :
    bandsAccepted image v = true ↔
      v.toNat / 256 < v.toNat % 256 ∧ 10 ≤ v.toNat % 256 ∧ v.toNat % 256 ≤ 100 ∧
        v.toNat % 256 < (imageWord image 14).toNat / 256 := by
  simp only [bandsAccepted, decide_eq_true_eq, toNat_highByte, toNat_lowByte]

theorem fullBandAccepted_iff (image : List Word16) (v : Word16) :
    fullBandAccepted image v = true ↔
      v.toNat / 256 ≤ 100 ∧ (imageWord image 13).toNat % 256 < v.toNat / 256 := by
  simp only [fullBandAccepted, decide_eq_true_eq, toNat_highByte, toNat_lowByte]

/-- The check of a profile word, index by index (R119). -/
theorem profileAccepted_iff (image : List Word16) (index : Nat) (v : Word16) :
    profileAccepted image index v = true ↔ wordFits image index v := by
  rcases Nat.lt_or_ge index 20 with small | large
  · interval_cases index <;>
      simp [profileAccepted, wordFits, tierAccepted_iff, bandsAccepted_iff, fullBandAccepted_iff]
  · have refused : profileAccepted image index v = false := by
      unfold profileAccepted
      split <;> first | omega | rfl
    rw [refused]
    unfold wordFits
    simp only [Bool.false_eq_true, false_iff]
    omega

/-- A word stored, in the register's terms. -/
theorem storeWord_emptyHolding (index : Nat) (v : Word16) (s : State) :
    let stored := { s with pp := { s.pp with image := s.pp.image.set index v, written := s.pp.written.set index true } }
    storeWord index v (emptyHolding s) =
      if stored.pp.written.all id = true then emptyHolding (windowClosed stored) else emptyHolding stored := by
  intro stored
  have closed : closeWindow (emptyHolding stored) = emptyHolding (windowClosed stored) := closeWindow_emptyHolding stored
  rw [← closed]
  rfl

/-- Settles O45, by the loader's state and the check of the word. -/
theorem profileWordStored : Obligations.ProfileWordStored := by
  unfold Obligations.ProfileWordStored
  intro s w held named index value stored
  have taken : exec .profileWord s = .next (commandProfileWord w (emptyHolding s)) :=
    congrArg _ (takeHeld_of_held held named commandProfileWord)
  have fits : wordFits s.pp.image index value →
      s.ae.join = .profile → s.pp.windowOpen = true →
      exec .profileWord s = .next (accept codeProfileWord (storeWord index value (emptyHolding s))) := by
    intro fit profile isOpen
    have loader : (emptyHolding s).loaderOpen = true := (loaderOpen_eq_true_iff s).2 ⟨profile, isOpen⟩
    rw [taken]
    unfold commandProfileWord
    rw [loader]
    exact congrArg _ (if_pos ((profileAccepted_iff ..).2 fit))
  refine ⟨fun shut => ?_, fun profile isOpen unfit => ?_, fun profile isOpen fit missing => ?_,
    fun profile isOpen fit all => ?_⟩
  · have loader : (emptyHolding s).loaderOpen = false := loaderOpen_eq_false shut
    rw [taken]
    unfold commandProfileWord
    rw [loader]
    rfl
  · have loader : (emptyHolding s).loaderOpen = true := (loaderOpen_eq_true_iff s).2 ⟨profile, isOpen⟩
    rw [taken]
    unfold commandProfileWord
    rw [loader]
    exact congrArg _ (if_neg (mt (profileAccepted_iff ..).1 unfit))
  · rw [fits fit profile isOpen, storeWord_emptyHolding, if_neg (by simpa [stored] using missing)]
    rfl
  · rw [fits fit profile isOpen, storeWord_emptyHolding, if_pos (by simpa [stored] using all)]
    rfl

/-! DEMAND (R64, R65). -/

/-- The offer of a demand's CLAIM, with the tier noted before it (log 15). -/
theorem passDemand_emptyHolding (tier : Nat) (s : State) :
    let noted := { s with ae := { s.ae with lastTier := tier } }
    let r := offerFrame { body := s.claimFor tier, originator := .ae, tracked := true, collisions := 0 } noted
    passDemand tier (emptyHolding s) =
      if r.1 = true then
        answered (r.2.setAe { r.2.ae with demand := { stage := .queued, outcome := r.2.ae.demand.outcome } })
          (acceptedReply 0x08 0 0)
      else answered r.2 (refusedReply 0x08 .busy) := by
  intro noted r
  have offered : offerFrame { body := s.claimFor tier, originator := .ae, tracked := true, collisions := 0 }
      (emptyHolding noted) = (r.1, emptyHolding r.2) := offerFrame_change passes_emptyHolding _ _
  have unfolded : passDemand tier (emptyHolding s) =
      let r := offerFrame { body := s.claimFor tier, originator := .ae, tracked := true, collisions := 0 }
        (emptyHolding noted)
      if r.1 = true then
        accept codeDemand (r.2.setAe { r.2.ae with demand := { stage := .queued, outcome := r.2.ae.demand.outcome } })
      else refuse codeDemand .busy r.2 := rfl
  rw [unfolded, offered]
  rfl

/-- Settles O56: the checks in their order, then the offer with room and without. -/
theorem demandPassed : Obligations.DemandPassed := by
  unfold Obligations.DemandPassed
  intro s w held named tier rounds refused claim
  let noted : State := { s with ae := { s.ae with lastTier := tier } }
  have taken : exec .demand s = .next (commandDemand w (emptyHolding s)) :=
    congrArg _ (takeHeld_of_held held named commandDemand)
  rw [taken]
  unfold commandDemand
  refine ⟨fun notConsumer => congrArg _ (if_pos notConsumer), fun consumer notLive => ?_,
    fun consumer joined live => ?_⟩
  · rw [if_neg (not_not_intro (show (emptyHolding s).role = .consumer from consumer))]
    rcases notLive with notJoined | notLive
    · rw [if_pos (show inRounds (emptyHolding s).ae.join = false from inRounds_eq_false notJoined)]
      rfl
    · rw [if_pos (show (emptyHolding s).ownEntry.presence ≠ .live from notLive)]
      exact congrArg _ (ite_self _)
  · rw [if_neg (not_not_intro (show (emptyHolding s).role = .consumer from consumer)),
      if_neg (by rw [show (emptyHolding s).ae.join = s.ae.join from rfl, (inRounds_eq_true_iff _).2 joined]; decide),
      if_neg (not_not_intro (show (emptyHolding s).ownEntry.presence = .live from live))]
    refine ⟨fun long => congrArg _ (if_pos long), fun short waits => ?_, fun short idle unmuted => ?_⟩
    · rw [if_neg (show ¬ (imageDraws (emptyHolding s).pp.image).length < argument1 w from Nat.not_lt.2 short)]
      exact congrArg _ (if_pos waits)
    · rw [if_neg (show ¬ (imageDraws (emptyHolding s).pp.image).length < argument1 w from Nat.not_lt.2 short),
        if_neg (not_not_intro (show (emptyHolding s).ae.demand.stage = .idle from idle)), passDemand_emptyHolding]
      refine ⟨fun room => ?_, fun full => ?_⟩
      · rw [offerFrame_ordinary_of_room (s := noted) (admits_of_inRounds joined unmuted _) rfl room]
        rfl
      · rw [offerFrame_ordinary_of_full (s := noted) (admits_of_inRounds joined unmuted _) rfl full]
        rfl

/-! HANDOVER and TRIP-CLEAR (R95, R160). -/

theorem passHandover_emptyHolding (action : DutyAction) (s : State) :
    let r := offerFrame (newFrame (.duty action) .ae) s
    passHandover action (emptyHolding s) =
      if r.1 = true then answered r.2 (acceptedReply 0x0B 0 0) else answered r.2 (refusedReply 0x0B .busy) := by
  intro r
  unfold passHandover
  rw [offerFrame_change passes_emptyHolding]
  rfl

theorem passTripClear_emptyHolding (target : Address) (s : State) :
    let r := offerFrame (newFrame (.clear target) .ae) s
    passTripClear target (emptyHolding s) =
      if r.1 = true then answered r.2 (acceptedReply 0x0C 0 0) else answered r.2 (refusedReply 0x0C .busy) := by
  intro r
  unfold passTripClear
  rw [offerFrame_change passes_emptyHolding]
  rfl

theorem addressOfCode_val (a : Address) : addressOfCode a.val = some a := by
  unfold addressOfCode
  rw [dif_pos a.isLt]

theorem addressOfCode_of_large {n : Nat} (h : 15 < n) : addressOfCode n = none := by
  unfold addressOfCode
  exact dif_neg (by omega)

theorem addressOfCode_of_small {n : Nat} (h : n < 16) : addressOfCode n = some ⟨n, h⟩ := dif_pos h

/-- HANDOVER past its checks: the action named is passed on (R95). -/
theorem commandHandover_of_holder {s : State} {w : Word32} (joined : s.ae.join = .joined ∨ s.ae.join = .diverged)
    (flare : s.role = .flare) (holder : s.ae.committed.duty = some s.address) :
    commandHandover w s =
      match argument1 w with
      | 0 => passHandover .offer s
      | 1 => passHandover .withdraw s
      | _ => refuse codeHandover .parameter s := by
  have rounds : ¬ inRounds s.ae.join = false := by rw [(inRounds_eq_true_iff _).2 joined]; decide
  have passes : ¬ (s.role ≠ .flare ∨ s.ae.committed.duty ≠ some s.address) := by simp [flare, holder]
  exact (if_neg rounds).trans (if_neg passes)

/-- TRIP-CLEAR past its checks. -/
theorem commandTripClear_of_rounds {s : State} {w : Word32} {target : Address}
    (joined : s.ae.join = .joined ∨ s.ae.join = .diverged) (named : argument1 w = target.val) :
    commandTripClear w s = settle (passTripClear target s) := by
  unfold commandTripClear
  rw [named, addressOfCode_val]
  exact if_neg (by rw [(inRounds_eq_true_iff _).2 joined]; decide)

theorem handoverChecked {s : State} {w : Word32} (held : Held s w) (named : commandCode w = 0x0B) :
    exec .handover s = .next (commandHandover w (emptyHolding s)) :=
  congrArg _ (takeHeld_of_held held named commandHandover)

theorem tripClearChecked {s : State} {w : Word32} (held : Held s w) (named : commandCode w = 0x0C) :
    exec .tripClear s = .next (commandTripClear w (emptyHolding s)) :=
  congrArg _ (takeHeld_of_held held named commandTripClear)

/-- A DUTY frame passed on with room. -/
theorem passHandover_of_room {s : State} (room : roomToSend s) (action : DutyAction) :
    passHandover action (emptyHolding s) =
      answered
        (requeued s
          (waitingFrames s.lc ++ [{ body := .duty action, originator := .ae, tracked := false, collisions := 0 }]))
        (acceptedReply 0x0B 0 0) := by
  obtain ⟨joined, unmuted, short⟩ := room
  rw [passHandover_emptyHolding, offerFrame_ordinary_of_room (admits_of_inRounds joined unmuted _) rfl short]
  rfl

/-- A DUTY frame refused at a full queue. -/
theorem passHandover_of_full {s : State} (joined : s.ae.join = .joined ∨ s.ae.join = .diverged)
    (unmuted : s.lc.muted = false) (full : 8 ≤ s.lc.queue.length) (action : DutyAction) :
    passHandover action (emptyHolding s) =
      answered (raised (discarded s) .notTaken) (refusedReply 0x0B .busy) := by
  rw [passHandover_emptyHolding, offerFrame_ordinary_of_full (admits_of_inRounds joined unmuted _) rfl full]
  rfl

/-- Settles O58: each command by its checks, and by what the offer comes to. -/
theorem handoverAndTripClear : Obligations.HandoverAndTripClear := by
  unfold Obligations.HandoverAndTripClear
  intro s w held rounds
  refine ⟨fun named => ?_, fun named few => ?_⟩
  · rw [handoverChecked held named]
    refine ⟨fun notJoined => ?_, fun joined notHolder => ?_, fun joined flare holder => ?_⟩
    · exact congrArg _ (if_pos (inRounds_eq_false notJoined))
    · unfold commandHandover
      rw [if_neg (by rw [show (emptyHolding s).ae.join = s.ae.join from rfl, (inRounds_eq_true_iff _).2 joined]; decide)]
      exact congrArg _ (if_pos notHolder)
    · rw [commandHandover_of_holder (s := emptyHolding s) joined flare holder]
      refine ⟨fun large => ?_, fun room action chosen => ?_, fun unmuted full small => ?_⟩
      · obtain ⟨n, two⟩ : ∃ n, argument1 w = n + 2 := ⟨argument1 w - 2, by omega⟩
        rw [two]
        rfl
      · simp only [List.mem_cons, Prod.mk.injEq, List.not_mem_nil, or_false] at chosen
        rcases chosen with ⟨zero, rfl⟩ | ⟨one, rfl⟩
        · rw [zero]
          exact congrArg _ (passHandover_of_room room .offer)
        · rw [one]
          exact congrArg _ (passHandover_of_room room .withdraw)
      · rcases Nat.le_one_iff_eq_zero_or_eq_one.1 small with zero | one
        · rw [zero]
          exact congrArg _ (passHandover_of_full joined unmuted full .offer)
        · rw [one]
          exact congrArg _ (passHandover_of_full joined unmuted full .withdraw)
  · rw [tripClearChecked held named]
    refine ⟨fun large => ?_, fun small notJoined => ?_, fun target chosen room => ?_,
      fun small joined unmuted full none_waits => ?_, fun target chosen joined unmuted full waits => ?_⟩
    · unfold commandTripClear
      rw [addressOfCode_of_large large]
      rfl
    · unfold commandTripClear
      rw [addressOfCode_of_small small]
      exact congrArg _ (if_pos (inRounds_eq_false notJoined))
    · obtain ⟨joined, unmuted, short⟩ := room
      rw [commandTripClear_of_rounds (s := emptyHolding s) joined chosen, passTripClear_emptyHolding,
        offerFrame_head_of_room (admits_of_inRounds joined unmuted _) rfl short]
      exact congrArg _ (settle_of_lt few)
    · rw [commandTripClear_of_rounds (s := emptyHolding s) (target := ⟨argument1 w, small⟩) joined rfl,
        passTripClear_emptyHolding,
        offerFrame_head_of_full (admits_of_inRounds joined unmuted _) rfl (by omega) none_waits]
      exact congrArg _ (settle_of_lt few)
    · rw [commandTripClear_of_rounds (s := emptyHolding s) joined chosen, passTripClear_emptyHolding,
        if_pos (offerFrame_head_of_ordinary (admits_of_inRounds joined unmuted _) rfl waits), settle_eq_afterFailures]
      rfl

/-! RELEASE and RESTART (R125, R126). -/

theorem mayRelease_eq_true_iff (s : State) :
    s.mayRelease = true ↔ s.ae.join = .joined ∧ s.ae.ownLive = true ∧ s.ownEntry.presence = .live := by
  simp [State.mayRelease, and_assoc]

/-- A rank that three slots of quiet have fixed stays fixed over RESTART (log 23). -/
theorem fixView_of_restart (l : LineState) (sender : Address) (now : Nat) :
    fixView l sender now =
      match l with
      | .quiet since none => .quiet since (if since + 750 ≤ now then some sender else none)
      | l => l := by
  cases l with
  | busy first last own => rfl
  | quiet since view =>
    cases view with
    | some a => rfl
    | none =>
      change (if since + accessSlot * 3 ≤ now then _ else _) = LineState.quiet since (if since + 750 ≤ now then _ else _)
      by_cases fixed : since + 750 ≤ now
      · rw [if_pos fixed]
        exact if_pos fixed
      · rw [if_neg fixed]
        exact if_neg fixed

theorem restedAux_eq (role : Role) (i : EventInput) :
    restedAux role i.pin i.lost = { i with reference := i.pin && decide (role ≠ .flare), latch := false } := by
  obtain ⟨pin, reference, latch, lost⟩ := i
  cases role <;> cases pin <;> rfl

theorem detachedExchange_eq (x : Exchange) :
    detachedExchange x =
      match x with
      | .shifting word _ => .shifting word false
      | x => x := by
  cases x <;> rfl

theorem deviceWithdraw_emptyHolding (kind : OverrideKind) (s : State) :
    deviceWithdraw kind (emptyHolding s) = emptyHolding (deviceWithdraw kind s) := by
  have same : (emptyHolding s).ovs = s.ovs := rfl
  unfold deviceWithdraw
  rw [same]
  split <;> rfl

/-- Under START-HOLD alone the target stands (log 11). -/
theorem retarget_of_startHold {s : State} (h : s.ovs.stack = [startHoldEntry]) : retarget s = s := by
  unfold retarget
  rw [h]
  rfl

theorem withStack_startHold (s : State) : withStack s [startHoldEntry] = s.setOvs { stack := [startHoldEntry] } :=
  retarget_of_startHold rfl

theorem handSetpoint_of_startHold {s : State} (h : s.ovs.stack = [startHoldEntry]) (v : Word16) :
    handSetpoint v s = s.setVd { s.vd with baseSetpoint := v } := retarget_of_startHold h

theorem withFlag_joinChange : withFlag 0 .joinChange = 0x8000 := by decide

/-- RESTART, block by block. -/
theorem performRestart_eq (reply : Word32) (s : State) :
    performRestart reply s =
      { s with
        lc := restartedLink s.lc s.now
        ae := restartedEngine s.ae s.now s.lc.line
        ttu := idleTransfer 0
        ovs := { stack := [startHoldEntry] }
        vd :=
          { s.vd with
            baseSetpoint := if s.role = .producer ∨ s.role = .store then s.profileWord 2 else 0, lead := false }
        eiu := restartedInputs s.role s.eiu s.now
        smp := restartedSampler s.smp s.now
        pp := restartedPort s.pp reply } := by
  unfold performRestart
  dsimp only
  rw [restingSetpoint_eq, withStack_startHold, handSetpoint_of_startHold rfl]
  rfl

/-- Settles O59: RELEASE by its condition, RESTART block by block. -/
theorem releaseAndRestart : Obligations.ReleaseAndRestart := by
  unfold Obligations.ReleaseAndRestart
  intro s w held
  refine ⟨fun named => ?_, fun named => ?_⟩
  · have taken : exec .release s = .next (commandRelease w (emptyHolding s)) :=
      congrArg _ (takeHeld_of_held held named commandRelease)
    rw [taken]
    refine ⟨fun may => ?_, fun may => ?_⟩
    · unfold commandRelease
      rw [if_pos (show (emptyHolding s).mayRelease = true from (mayRelease_eq_true_iff s).2 may),
        deviceWithdraw_emptyHolding]
      rfl
    · exact congrArg _ (if_neg (mt (mayRelease_eq_true_iff s).1 may))
  · have taken : exec .restart s = .next (commandRestart w (emptyHolding s)) :=
      congrArg _ (takeHeld_of_held held named commandRestart)
    rw [taken]
    refine ⟨fun profile => congrArg _ (if_pos profile), fun notProfile => ⟨?_, rfl⟩⟩
    unfold commandRestart
    rw [if_neg (show ¬ (emptyHolding s).ae.join = .profile from notProfile)]
    rw [performRestart_eq]
    unfold restartedLink restartedInputs restartedPort
    rw [fixView_of_restart, restedAux_eq, detachedExchange_eq, withFlag_joinChange]
    rfl

end Sys2Proof.Panel
end

section
/-! SUPPORT. The attention lines and the reading commands of the panel (R15, R67, R159, R161, R166, R167). -/

namespace Sys2Proof.Readings

open Sys2Proof.Machine Sys2Proof.Safety Sys2Proof.Laws Sys2Proof.Terms Sys2Proof.Panel

/-! The attention lines (R161). -/

theorem bne_zero_iff_exists (w : Word16) : (w != 0) = true ↔ ∃ n < 16, w.getLsbD n = true := by
  rw [bne_iff_ne, Ne, BitVec.eq_of_getLsbD_eq_iff]
  simp

/-- A line is asserted by a flag that is set, unmasked, and of the line's level. -/
theorem attention_iff (flags masks levels : Word16) :
    (flags &&& ~~~masks &&& levels != 0) = true ↔
      ∃ n < 16, flags.getLsbD n = true ∧ masks.getLsbD n = false ∧ levels.getLsbD n = true := by
  rw [bne_zero_iff_exists]
  refine exists_congr fun n => and_congr_right fun small => ?_
  simp [small, and_assoc]

theorem attr_iff (s : State) :
    s.attr = true ↔ ∃ n < 16, s.pp.flags.getLsbD n = true ∧ s.pp.masks.getLsbD n = false ∧
      s.pp.levels.getLsbD n = false := by
  refine (attention_iff ..).trans (exists_congr fun n => and_congr_right fun small => ?_)
  simp [small]

/-! Replies (R167). -/

/-- An accepted reply with its field in range. -/
theorem acceptedReply_eq {code field : Nat} (codeFits : code < 32) (fieldFits : field < 8) (v : Word16) :
    acceptedReply code field v =
      wordOf 0 (byteOf (code + 32 * field)) (v.extractLsb' 8 8) (v.extractLsb' 0 8) := by
  unfold acceptedReply dataByte1
  rw [Nat.mod_eq_of_lt codeFits, Nat.mod_eq_of_lt fieldFits]

theorem refusedReply_eq (code : Nat) (r : RefusalStatus) :
    refusedReply code r = wordOf (refusalBits r) (byteOf (code % 32)) 0 0 := rfl

theorem toNat_wordOfBytes (hi lo : Byte) : (wordOfBytes hi lo).toNat = 256 * hi.toNat + lo.toNat := by
  have small := lo.isLt
  rw [wordOfBytes, BitVec.toNat_append, ← Nat.shiftLeft_add_eq_or_of_lt small, Nat.shiftLeft_eq]
  omega

theorem extractHigh_wordOfBytes (hi lo : Byte) : (wordOfBytes hi lo).extractLsb' 8 8 = hi := by
  have := hi.isLt
  have := lo.isLt
  apply BitVec.eq_of_toNat_eq
  rw [BitVec.extractLsb'_toNat, toNat_wordOfBytes, Nat.shiftRight_eq_div_pow]
  omega

theorem extractLow_wordOfBytes (hi lo : Byte) : (wordOfBytes hi lo).extractLsb' 0 8 = lo := by
  have := lo.isLt
  apply BitVec.eq_of_toNat_eq
  rw [BitVec.extractLsb'_toNat, toNat_wordOfBytes, Nat.shiftRight_eq_div_pow]
  omega

/-- An accepted reply of two data bytes. -/
theorem acceptedReply_dataOf {code field : Nat} (codeFits : code < 32) (fieldFits : field < 8) (d2 d3 : Nat) :
    acceptedReply code field (dataOf d2 d3) = wordOf 0 (byteOf (code + 32 * field)) (byteOf d2) (byteOf d3) := by
  unfold dataOf
  rw [acceptedReply_eq codeFits fieldFits, extractHigh_wordOfBytes, extractLow_wordOfBytes]

theorem byteOf_mod_256 (w : Word16) : byteOf (w.toNat % 256) = w.extractLsb' 0 8 := by
  apply BitVec.eq_of_toNat_eq
  simp [byteOf, BitVec.toNat_ofNat, BitVec.extractLsb'_toNat]

theorem joinStateCode_lt (j : JoinState) : joinStateCode j < 8 := by cases j <;> decide

theorem roleCode_lt (r : Option Role) : roleCode r < 8 := by
  cases r with
  | none => decide
  | some r => cases r <;> decide

theorem flagBit_eq (b : Bool) (n : Nat) : n * flagBit b = if b = true then n else 0 := by
  cases b <;> simp [flagBit]

/-! NOP and STATUS. -/

/-- What NOP answers: the counter of the selector, or PARAMETER (R35). -/
theorem exec_nop {s : State} {w : Word32} (held : Held s w) (named : commandCode w = 0x00) :
    (∀ c, counterOf s.lc.counters (argument1 w) = some c →
      exec .nop s = .next (answered s (acceptedReply 0x00 0 c))) ∧
    (5 < argument1 w → exec .nop s = .next (answered s (refusedReply 0x00 .parameter))) := by
  have taken : exec .nop s = .next (commandNop w (emptyHolding s)) :=
    congrArg _ (takeHeld_of_held held named commandNop)
  have counters : (emptyHolding s).lc.counters = s.lc.counters := rfl
  rw [taken]
  unfold commandNop
  rw [counters]
  refine ⟨fun c selected => ?_, fun large => ?_⟩
  · rw [selected]
    rfl
  · obtain ⟨n, past⟩ : ∃ n, argument1 w = n + 6 := ⟨argument1 w - 6, by omega⟩
    have none_selected : counterOf s.lc.counters (argument1 w) = none := by rw [past]; rfl
    rw [none_selected]
    rfl

/-- A latched channel as STATUS answers it: its value, or a free value where INVALID (log 10). -/
theorem statusChannel_emptyHolding (reading : Option Word16) (s : State) :
    (∀ v, reading = some v → statusChannel reading (emptyHolding s) = answered s (acceptedReply 0x01 1 v)) ∧
    (reading = none → ∃ v, statusChannel reading (emptyHolding s) =
      answered { s with freeCount := s.freeCount + 1 } (acceptedReply 0x01 0 v)) := by
  refine ⟨fun v valid => ?_, fun invalid => ⟨Config.invalidReading s.freeCount, ?_⟩⟩
  · rw [valid]
    rfl
  · rw [invalid]
    rfl

/-- STATUS of a latched channel answers for that channel. -/
theorem commandStatus_channel {w : Word32} {s : State} {reading : Option Word16} (positive : 1 ≤ argument1 w)
    (selected : [s.ae.latched.ch0, s.ae.latched.ch1, s.ae.latched.ch2, s.ae.latched.ch3][argument1 w - 1]? =
      some reading) : commandStatus w s = statusChannel reading s := by
  obtain ⟨n, page⟩ : ∃ n, argument1 w = n + 1 := ⟨argument1 w - 1, by omega⟩
  rw [page] at selected
  have inRange : n < 4 := (List.getElem?_eq_some_iff.1 selected).1
  unfold commandStatus
  rw [page]
  interval_cases n <;> (rw [← Option.some.inj selected]; rfl)

theorem commandStatus_of_large {w : Word32} (large : 5 < argument1 w) (s : State) :
    commandStatus w s = refuse codeStatus .parameter s := by
  obtain ⟨n, past⟩ : ∃ n, argument1 w = n + 6 := ⟨argument1 w - 6, by omega⟩
  unfold commandStatus
  rw [past]
  rfl

theorem exec_status {s : State} {w : Word32} (held : Held s w) (named : commandCode w = 0x01) :
    exec .status s = .next (commandStatus w (emptyHolding s)) :=
  congrArg _ (takeHeld_of_held held named commandStatus)

/-- STATUS page 0 (R167). -/
theorem statusPage0_eq (s : State) :
    statusPage0 s =
      wordOf 0 (byteOf (0x01 + 32 * joinStateCode s.ae.join))
        (byteOf (presenceCode s.ownEntry.presence + 4 * governingCode (governingKind s.ovs.stack)))
        (s.ae.round.extractLsb' 0 8) := by
  rw [← byteOf_mod_256]
  exact acceptedReply_dataOf (by decide) (joinStateCode_lt _) _ _

/-- STATUS page 5 (R144). -/
theorem statusLost_eq (s : State) :
    statusLost s =
      wordOf 0 (byteOf (0x01 + 32 * 0)) (byteOf (16 * s.eiu.esd.lost + s.eiu.trip.lost))
        (byteOf (16 * s.eiu.permit.lost + s.eiu.aux.lost)) :=
  acceptedReply_dataOf (by decide) (by decide) _ _

/-! CONTRACT (R67). -/

theorem exec_contract {s : State} {w : Word32} (held : Held s w) (named : commandCode w = 0x02) :
    exec .contract s =
      .next (answered s
        (acceptedReply 0x02 0 (if argument1 w % 2 = 0 then contractEntry s else contractDemand s))) :=
  congrArg _ (takeHeld_of_held held named commandContract)

theorem contractEntry_of_none {s : State} (h : ∀ q ∈ s.ae.committed.queue, q.claimant ≠ s.address) :
    contractEntry s = dataOf 0 0 := by
  unfold contractEntry
  rw [(Claims.queueEntryOf_eq_none_iff s.ae.committed.queue s.address).2 h]
  rfl

theorem positionOf_append {ahead behind : List QueueEntry} {q : QueueEntry} {a : Address} (own : q.claimant = a)
    (first : ∀ x ∈ ahead, x.claimant ≠ a) : positionOf (ahead ++ q :: behind) a = ahead.length + 1 := by
  have found : (ahead ++ q :: behind).findIdx? (fun q => decide (q.claimant = a)) = some ahead.length := by
    rw [List.findIdx?_append, List.findIdx?_eq_none_iff.2 (by simpa using first)]
    simp [List.findIdx?_cons, own]
  unfold positionOf
  rw [found]

theorem queueEntryOf_append {ahead behind : List QueueEntry} {q : QueueEntry} {a : Address} (own : q.claimant = a)
    (first : ∀ x ∈ ahead, x.claimant ≠ a) : queueEntryOf (ahead ++ q :: behind) a = some q := by
  unfold queueEntryOf
  rw [List.find?_append, List.find?_eq_none.2 (by simpa using first)]
  simp [own]

theorem contractEntry_append {s : State} {ahead behind : List QueueEntry} {q : QueueEntry}
    (queue : s.ae.committed.queue = ahead ++ q :: behind) (own : q.claimant = s.address)
    (first : ∀ x ∈ ahead, x.claimant ≠ s.address) (requested : q.requested < 8) (granted : q.granted < 8) :
    contractEntry s =
      dataOf (q.requested + 8 * q.granted + 64 * entryStateCode q.state) (ahead.length + 1) := by
  unfold contractEntry
  rw [queue, queueEntryOf_append own first, positionOf_append own first]
  dsimp only
  rw [Nat.mod_eq_of_lt requested, Nat.mod_eq_of_lt granted]

/-! WINDOW and READ (R15). -/

theorem exec_window {s : State} {w : Word32} (held : Held s w) (named : commandCode w = 0x03) :
    exec .window s = .next (commandWindow w (emptyHolding s)) :=
  congrArg _ (takeHeld_of_held held named commandWindow)

theorem exec_read {s : State} {w : Word32} (held : Held s w) (named : commandCode w = 0x04) :
    exec .read s =
      .next (answered { s with pp := { s.pp with part := s.pp.part + 1 } }
        (readPart s.ae.committed s.pp.windowIndex s.pp.part)) :=
  congrArg _ (takeHeld_of_held held named commandRead)

theorem shownAge_lt (e : Entry) (slot : Nat) : shownAge e slot < 4 := by
  unfold shownAge
  split
  · decide
  · split
    · exact Nat.mod_lt _ (by decide)
    · decide

/-- READ part 0 of an entry (R167). -/
theorem readPart0_eq (c : Committed) (n : Address) :
    let e := entryOf c.table n
    readPart0 c n =
      wordOf 0 (byteOf (0x04 + 32 * roleCode e.role))
        (byteOf (presenceCode e.presence + 4 * (e.heard % 2) + 8 * (e.miss % 4) + (if e.flame then 32 else 0) +
          (if e.dutyAllowed then 64 else 0) + (if c.trips.getLsbD n.val then 128 else 0)))
        (byteOf (verdictCode e.verdict + 16 * governingCode e.governing)) := by
  intro e
  simp only [← flagBit_eq]
  exact acceptedReply_dataOf (by decide) (roleCode_lt _) _ _

/-- READ parts 1 and 2 (log 16). -/
theorem readSlot_eq (c : Committed) (n : Address) (slot : Nat) (flag : Bool) :
    let e := entryOf c.table n
    let slots := (roleSlots e.role).length
    let v := if slot < slots then (entryFigure e slot).value else 0
    readSlot c n slot flag =
      wordOf 0
        (byteOf (0x04 + 32 * ((if e.presence = .absent then 3 else if slot < slots then (entryFigure e slot).age % 4 else 0) +
          (if flag then 4 else 0))))
        (v.extractLsb' 8 8) (v.extractLsb' 0 8) := by
  intro e slots v
  have small : shownAge e slot + 4 * flagBit flag < 8 := by
    have := shownAge_lt e slot
    rw [flagBit_eq]
    split <;> omega
  rw [← flagBit_eq]
  exact acceptedReply_eq (by decide) small v

/-- READ part 3. -/
theorem readPart3_eq (c : Committed) (n : Address) :
    readPart3 c n = acceptedReply 0x04 (if c.duty = some n then 1 else 0) (BitVec.ofNat 16 (min 65535 c.unburnt)) := by
  unfold readPart3 flagBit
  by_cases holder : c.duty = some n <;> simp [holder, codeRead]

/-! EVENTS, ACK, MASK, and a code that names no command. -/

theorem exec_events {s : State} {w : Word32} (held : Held s w) (named : commandCode w = 0x05) :
    exec .events s =
      .next (answered s (acceptedReply 0x05 0 (if argument1 w % 2 = 0 then s.pp.flags else s.pp.masks))) :=
  congrArg _ (takeHeld_of_held held named commandEvents)

theorem exec_illegalCommandCode {s : State} {w : Word32} (held : Held s w) (unnamed : 0x11 < commandCode w) :
    exec .illegalCommandCode s = .next (answered s (refusedReply (commandCode w) .illegal)) := by
  change execIllegalCommandCode s = _
  unfold execIllegalCommandCode
  rw [takeable_of_held held (decide_eq_true unnamed)]
  rfl

/-- Settles O55, command by command. -/
theorem readingCommands : Obligations.ReadingCommands := by
  unfold Obligations.ReadingCommands
  intro s
  refine ⟨attention_iff .., attr_iff s, ?_⟩
  intro w held a reply value refused
  have accepted : ∀ {code d1 : Nat} (v : Word16), code < 32 → d1 < 8 → acceptedReply code d1 v = value code d1 v :=
    fun v codeFits fieldFits => acceptedReply_eq codeFits fieldFits v
  have answers : ∀ {i : Instr} {t : State} {r r' : Word32}, exec i s = .next (answered t r) → r = r' →
      exec i s = .next (answered t r') := fun done same => same ▸ done
  refine ⟨fun named => ?_, fun named => ?_, fun named => ?_, fun named => ?_, fun named => ?_, fun named => ?_,
    fun named => ?_, fun named => ?_, fun unnamed => exec_illegalCommandCode held unnamed⟩
  · obtain ⟨counter, parameter⟩ := exec_nop held named
    exact ⟨fun c selected => answers (counter c selected) (accepted c (by decide) (by decide)), parameter⟩
  · rw [exec_status held named]
    refine ⟨fun zero => ?_, fun v selected positive => ?_, fun selected positive => ?_, fun five => ?_, fun large => ?_⟩
    · have page : commandStatus w (emptyHolding s) = answered s (statusPage0 s) := by
        unfold commandStatus
        rw [show argument1 w = 0 from zero]
        rfl
      rw [page, statusPage0_eq]
    · rw [commandStatus_channel (s := emptyHolding s) positive selected, (statusChannel_emptyHolding _ s).1 v rfl,
        accepted v (by decide) (by decide)]
    · obtain ⟨v, free⟩ := (statusChannel_emptyHolding none s).2 rfl
      exact ⟨v, by rw [commandStatus_channel (s := emptyHolding s) positive selected, free, accepted v (by decide) (by decide)]⟩
    · have page : commandStatus w (emptyHolding s) = answered s (statusLost s) := by
        unfold commandStatus
        rw [show argument1 w = 5 from five]
        rfl
      rw [page, statusLost_eq]
    · rw [commandStatus_of_large large]
      rfl
  · have taken := exec_contract held named
    refine ⟨fun even free => ?_, fun ahead q behind even queue own first requested granted => ?_, fun odd => ?_⟩
    · rw [if_pos even, contractEntry_of_none free] at taken
      exact answers taken (acceptedReply_dataOf (by decide) (by decide) 0 0)
    · rw [if_pos even, contractEntry_append queue own first requested granted] at taken
      exact answers taken (acceptedReply_dataOf (by decide) (by decide) _ _)
    · rw [if_neg (by omega)] at taken
      exact answers taken (acceptedReply_dataOf (by decide) (by decide) _ _)
  · rw [exec_window held named]
    unfold commandWindow
    refine ⟨fun n selected => ?_, fun large => ?_⟩
    · rw [show argument1 w = n.val from selected, addressOfCode_val]
      rfl
    · rw [addressOfCode_of_large large]
      rfl
  · have taken := exec_read held named
    intro c e reads slots slot
    refine ⟨fun part => ?_, fun part => ?_, fun part => ?_, fun part => ?_⟩
    · exact answers taken (by rw [part]; exact readPart0_eq c _)
    · exact answers taken (by rw [part]; exact readSlot_eq c _ 0 c.offer)
    · exact answers taken (by rw [part]; exact readSlot_eq c _ 1 c.flaring)
    · refine answers taken ?_
      rw [part]
      refine (readPart3_eq c _).trans (accepted _ (by decide) ?_)
      split <;> decide
  · have taken := exec_events held named
    refine ⟨fun even => ?_, fun odd => ?_⟩
    · rw [if_pos even] at taken
      exact answers taken (accepted _ (by decide) (by decide))
    · rw [if_neg (by omega)] at taken
      exact answers taken (accepted _ (by decide) (by decide))
  · have taken : exec .ack s = .next (commandAck w (emptyHolding s)) :=
      congrArg _ (takeHeld_of_held held named commandAck)
    exact answers taken (accepted _ (by decide) (by decide))
  · have taken : exec .mask s = .next (commandMask w (emptyHolding s)) :=
      congrArg _ (takeHeld_of_held held named commandMask)
    exact answers taken (accepted _ (by decide) (by decide))

end Sys2Proof.Readings
end

section
/-! SUPPORT. The event inputs: edges, the filter of IN3, and the events taken (R143 to R149). -/

namespace Sys2Proof.Inputs

open Sys2Proof.Machine Sys2Proof.Safety Sys2Proof.Laws Sys2Proof.Terms Sys2Proof.Offers Sys2Proof.Timers

/-! Edges (R143, R144). -/

theorem raiseLost_eq (counts : Bool) (i : EventInput) (s : State) :
    raiseLost counts i s = if counts = true ∧ i.latch = true then raised s .inputLost else s := by
  unfold raiseLost raiseIf
  cases counts <;> cases i.latch <;> rfl

theorem edgeTaken_eq (counts level : Bool) (i : EventInput) :
    edgeTaken counts level i =
      { pin := level, reference := level, latch := i.latch || counts,
        lost := if counts = true ∧ i.latch = true ∧ i.lost < 15 then i.lost + 1 else i.lost } := by
  obtain ⟨pin, reference, latch, lost⟩ := i
  cases counts with
  | false => cases latch <;> rfl
  | true =>
    cases latch with
    | false => rfl
    | true => by_cases room : lost < 15 <;> simp [edgeTaken, latchEdge, atLevel, lostUp, lostLimit, room]

/-- IN3's counted level changed: an edge of it. -/
theorem countedTaken_of_change {level : Bool} {i : EventInput} (change : i.reference ≠ level) :
    countedTaken level i =
      { i with
        reference := level, latch := true
        lost := if i.latch = true ∧ i.lost < 15 then i.lost + 1 else i.lost } := by
  obtain ⟨pin, reference, latch, lost⟩ := i
  unfold countedTaken
  rw [if_neg change]
  cases latch with
  | false => rfl
  | true => by_cases room : lost < 15 <;> simp [latchEdge, lostUp, lostLimit, room]

theorem countAux_of_change {level : Bool} {s : State} (change : s.eiu.aux.reference ≠ level) :
    countAux level s =
      (let u := s.setEiu
        { s.eiu with
          aux :=
            { s.eiu.aux with
              reference := level, latch := true
              lost := if s.eiu.aux.latch = true ∧ s.eiu.aux.lost < 15 then s.eiu.aux.lost + 1 else s.eiu.aux.lost } }
      if s.eiu.aux.latch = true then raised u .inputLost else u) := by
  unfold countAux
  rw [countedTaken_of_change change, raiseLost_eq]
  simp only [change, ne_eq, not_false_eq_true, decide_true, true_and]

theorem countAux_of_same {level : Bool} {s : State} (same : s.eiu.aux.reference = level) : countAux level s = s := by
  have noEdge : decide (s.eiu.aux.reference ≠ level) = false := decide_eq_false (not_not_intro same)
  have kept : countedTaken level s.eiu.aux = s.eiu.aux := if_pos same
  unfold countAux
  rw [noEdge, kept]
  rfl

/-- Settles O46, pin by pin. -/
theorem inputEdges : Obligations.InputEdges := by
  unfold Obligations.InputEdges
  intro s level next lost esd trip permit
  refine ⟨?_, ?_, ?_, fun same => ?_, fun change begins => ?_, fun high falls flare unproven => ?_,
    fun high falls flare proven => ?_⟩
  · change Host.Outcome.next (esdPin level s) = _
    unfold esdPin
    rw [raiseLost_eq, edgeTaken_eq]
    rfl
  · change Host.Outcome.next (tripPin level s) = _
    unfold tripPin
    rw [raiseLost_eq, edgeTaken_eq]
    rfl
  · change Host.Outcome.next (permitPin level s) = _
    unfold permitPin
    rw [raiseLost_eq, edgeTaken_eq]
    rfl
  · exact congrArg _ (if_pos same)
  · change Host.Outcome.next (auxPin level s) = _
    unfold auxPin
    rw [if_neg change]
    rcases begins with notFlare | rises
    · rw [if_neg notFlare]
      rfl
    · subst rises
      exact congrArg _ (ite_self _)
  · subst falls
    change Host.Outcome.next (auxPin false s) = _
    unfold auxPin
    rw [if_neg (by rw [high]; decide), if_pos flare]
    exact congrArg _ (countAux_of_same (s := withAuxPin false .stopped s) unproven)
  · subst falls
    change Host.Outcome.next (auxPin false s) = _
    unfold auxPin
    rw [if_neg (by rw [high]; decide), if_pos flare]
    have change : (withAuxPin false .stopped s).eiu.aux.reference ≠ false := by
      rw [show (withAuxPin false .stopped s).eiu.aux.reference = s.eiu.aux.reference from rfl, proven]
      decide
    refine congrArg _ ((countAux_of_change change).trans ?_)
    simp only [lost, next, true_and, Bool.or_true]
    rfl

/-! The filter of IN3 (R149). -/

theorem filterEnded_eq (s : State) :
    filterEnded s =
      (let i := s.eiu.aux
      if i.pin = i.reference then s.setEiu { s.eiu with wait := .stopped }
      else if i.latch = true then
        raised
          (s.setEiu
            { s.eiu with
              wait := .stopped
              aux := { i with reference := i.pin, lost := if i.lost < 15 then i.lost + 1 else i.lost } })
          .inputLost
      else s.setEiu { s.eiu with wait := .stopped, aux := { i with reference := i.pin, latch := true } }) := by
  let u := s.setEiu { s.eiu with wait := .stopped }
  change countAux s.eiu.aux.pin u = _
  dsimp only
  by_cases same : s.eiu.aux.pin = s.eiu.aux.reference
  · rw [if_pos same, countAux_of_same (s := u) same.symm]
  · rw [if_neg same, countAux_of_change (s := u) (Ne.symm same)]
    obtain ⟨address, role, lc, ae, ttu, ovs, vd, ⟨esd, trip, permit, ⟨pin, reference, latch, lost⟩, wait, flame, out⟩,
      smp, pp, now, free, pending⟩ := s
    cases latch with
    | false => rfl
    | true => simp [u, State.setEiu]

/-- Settles O50: the wait at its end, and the event taken. -/
theorem auxFilterAndEvent : Obligations.AuxFilterAndEvent := by
  unfold Obligations.AuxFilterAndEvent
  intro s counted
  refine ⟨fun since waiting notFlare => ?_, fun since waiting flare => ?_, fun latched noEsd noTrip noPermit => ?_⟩
  · have due : timerDue s.eiu.wait debounceTime = some (since + 10000) := by rw [waiting]; rfl
    change execIn3DebounceExpiry s = _
    unfold execIn3DebounceExpiry
    rw [due]
    dsimp only
    rw [if_neg notFlare, filterEnded_eq]
    rfl
  · have due : timerDue s.eiu.wait provingTime = some (since + 2000000) := by rw [waiting]; rfl
    change execFlameProvingExpiry s = _
    unfold execFlameProvingExpiry
    rw [due]
    dsimp only
    rw [if_pos flare, filterEnded_eq]
    rfl
  · change execAuxEvent s = _
    unfold execAuxEvent
    rw [if_pos (by simp [latched, noEsd, noTrip, noPermit])]
    refine congrArg _ ?_
    unfold auxActions
    by_cases flare : s.role = .flare
    · rw [if_pos flare]
      exact congrArg (raised · .auxChange) (if_pos flare)
    · rw [if_neg flare]
      exact congrArg (raised · .auxChange) (if_neg flare)

/-! Changes of the inputs and of the stack, which an offer passes by. -/

theorem passes_setEiu (x : EventInputUnit) : Passes (State.setEiu · x) where
  lc _ := rfl
  ttu _ := rfl
  join _ := rfl
  setLc _ _ := rfl
  setTtu _ _ := rfl
  raise _ _ := rfl
  demand _ := rfl
  announce _ := rfl
  hold _ _ := rfl

/-- A withdrawal reads and alters what no frame touches. -/
theorem deviceWithdraw_change {kind : OverrideKind} {change : State → State} (ovs : ∀ s, (change s).ovs = s.ovs)
    (stack : ∀ s new, withStack (change s) new = change (withStack s new)) (s : State) :
    deviceWithdraw kind (change s) = change (deviceWithdraw kind s) := by
  unfold deviceWithdraw
  rw [ovs, stack]
  split <;> rfl

theorem passes_deviceWithdraw (kind : OverrideKind) : Passes (deviceWithdraw kind) where
  lc s := (stackWork_deviceWithdraw kind s).lc
  ttu s := (stackWork_deviceWithdraw kind s).ttu
  join s := by rw [(stackWork_deviceWithdraw kind s).ae]
  setLc s x := deviceWithdraw_change (change := fun s => s.setLc x) (fun _ => rfl) (fun _ _ => rfl) s
  setTtu s x := deviceWithdraw_change (change := fun s => s.setTtu x) (fun _ => rfl) (fun _ _ => rfl) s
  raise s e := deviceWithdraw_change (change := raiseEvent e) (fun _ => rfl) (fun _ _ => rfl) s
  demand s := deviceWithdraw_change (change := demandNotTaken) (fun _ => rfl) (fun _ _ => rfl) s
  announce s := deviceWithdraw_change (change := announceLost) (fun _ => rfl) (fun _ _ => rfl) s
  hold s h := deviceWithdraw_change (change := holdFrame h) (fun _ => rfl) (fun _ _ => rfl) s

theorem deviceWithdraw_setEiu (kind : OverrideKind) (x : EventInputUnit) (s : State) :
    deviceWithdraw kind (s.setEiu x) = (deviceWithdraw kind s).setEiu x :=
  deviceWithdraw_change (change := fun s => s.setEiu x) (fun _ => rfl) (fun _ _ => rfl) s

theorem deviceWithdraw_dropHeldTrip (kind : OverrideKind) (s : State) :
    deviceWithdraw kind (dropHeldTrip s) = dropHeldTrip (deviceWithdraw kind s) :=
  deviceWithdraw_change (change := dropHeldTrip) (fun _ => rfl) (fun _ _ => rfl) s

/-- A device's push does not read the inputs. -/
theorem devicePush_setEiu (kind : OverrideKind) (x : EventInputUnit) (s : State) :
    devicePush kind (s.setEiu x) = (devicePush kind s).setEiu x := by
  have ovs : (s.setEiu x).ovs = s.ovs := rfl
  unfold devicePush placeOverride
  rw [ovs]
  split
  · rfl
  · split
    · rfl
    · cases makeRoom s.ovs.stack with
      | none => rfl
      | some room =>
        obtain ⟨stack, dropped⟩ := room
        cases dropped <;> rfl

theorem offerOrHold_change {change : State → State} (pass : Passes change) (body : FrameBody) (held : HeldFrame)
    (s : State) : offerOrHold body held (change s) = change (offerOrHold body held s) := by
  unfold offerOrHold
  rw [offerFrame_change pass]
  dsimp only
  split
  · rfl
  · rw [pass.hold]

/-! ESD (R146). -/

/-- An ESD event: the stack's entry and the marks first, then the TRIP, offered or held. -/
theorem exec_esdEvent {s : State} (latched : s.eiu.esd.latch = true) :
    let p := if s.role = .flare then s else devicePush .esdIsolate s
    let taken := { p with eiu := { s.eiu with esd := { s.eiu.esd with latch := false }, tripOutstanding := true } }
    exec .esdEvent s = .next (settle (offerOrHold .trip .trip taken)) := by
  intro p taken
  let cleared : EventInputUnit := { s.eiu with esd := takenInput s.eiu.esd }
  have pushed : (if s.role = .flare then s.setEiu cleared else devicePush .esdIsolate (s.setEiu cleared)) =
      p.setEiu cleared := by
    by_cases flare : s.role = .flare
    · simp only [p, if_pos flare]
    · simp only [p, if_neg flare, devicePush_setEiu]
  have outstanding : ∀ u : State, u.eiu = cleared →
      u.setEiu { u.eiu with tripOutstanding := true } = u.setEiu { cleared with tripOutstanding := true } :=
    fun u same => by rw [same]
  have offered : (offerOrHold .trip .trip (p.setEiu cleared)).eiu = cleared := by
    rw [offerOrHold_change (passes_setEiu cleared)]
    rfl
  have acted : esdActions (s.setEiu cleared) =
      (offerOrHold .trip .trip (p.setEiu cleared)).setEiu { cleared with tripOutstanding := true } := by
    rw [← outstanding _ offered, ← pushed]
    rfl
  change execEsdEvent s = _
  unfold execEsdEvent
  rw [if_pos latched, acted, ← offerOrHold_change (passes_setEiu _)]
  rfl

/-- What the offer comes to, where the hold takes what is refused. -/
theorem offerOrHold_of_admitted {body : FrameBody} {held : HeldFrame} {s t : State}
    (h : offerFrame (newFrame body .eiu) s = (true, t)) : offerOrHold body held s = t := by
  unfold offerOrHold
  rw [h]
  rfl

theorem offerOrHold_of_refused {body : FrameBody} {held : HeldFrame} {s t : State}
    (h : offerFrame (newFrame body .eiu) s = (false, t)) : offerOrHold body held s = holdFrame held t := by
  unfold offerOrHold
  rw [h]
  rfl

theorem offerOrHold_of_first {body : FrameBody} {held : HeldFrame} {s : State}
    (h : (offerFrame (newFrame body .eiu) s).1 = true) :
    offerOrHold body held s = (offerFrame (newFrame body .eiu) s).2 := if_pos h

/-- Settles O47, by what the offer of the TRIP comes to. -/
theorem esdEventTaken : Obligations.EsdEventTaken := by
  unfold Obligations.EsdEventTaken
  intro s latched few p taken held trip rounds
  have work : StackWork s p := by
    by_cases flare : s.role = .flare
    · simp only [p, if_pos flare]
      exact StackWork.refl s
    · simp only [p, if_neg flare]
      exact stackWork_devicePush _ s
  have lc : taken.lc = s.lc := work.lc
  have ae : taken.ae = s.ae := work.ae
  have ttu : taken.ttu = s.ttu := work.ttu
  have takes : exec .esdEvent s = .next (settle (offerOrHold .trip .trip taken)) := exec_esdEvent latched
  have calm : ∀ {u : State}, offerOrHold .trip .trip taken = u → u.ttu = s.ttu → exec .esdEvent s = .next u := by
    intro u offered same
    rw [takes, offered, settle_of_lt (same ▸ few)]
  have admitted : (s.ae.join = .joined ∨ s.ae.join = .diverged) → s.lc.muted = false →
      admits taken.ae.join taken.lc.muted (.trip : FrameBody) = true := by
    rw [lc, ae]
    exact fun joined unmuted => admits_of_inRounds joined unmuted _
  refine ⟨fun ⟨joined, unmuted, room⟩ => ?_, fun outside => ?_, fun ⟨joined, unmuted⟩ full none_waits => ?_,
    fun ⟨joined, unmuted⟩ full waits => ?_⟩
  · rw [← lc]
    exact calm (offerOrHold_of_admitted (offerFrame_head_of_room (admitted joined unmuted) rfl (by rw [lc]; exact room)))
      ttu
  · refine calm ((offerOrHold_of_refused (offerFrame_of_refused ?_)).trans ?_) ttu
    · rw [ae]
      exact admits_of_outside outside _ rfl
    · change holdFrame .trip taken = { taken with ae := { taken.ae with hold := s.ae.hold ++ [.trip] } }
      rw [← ae]
      rfl
  · refine calm ((offerOrHold_of_refused
      (offerFrame_head_of_full (admitted joined unmuted) rfl (by rw [lc]; omega) (by rw [lc]; exact none_waits))).trans ?_)
      ttu
    change holdFrame .trip (discarded taken) =
      discarded { taken with ae := { taken.ae with hold := s.ae.hold ++ [.trip] } }
    rw [← ae]
    rfl
  · rw [takes, offerOrHold_of_first
      (offerFrame_head_of_ordinary (admitted joined unmuted) rfl (by rw [lc]; exact waits)), settle_eq_afterFailures]
    rfl

/-! TRIP (R147). -/

theorem exec_tripEvent {s : State} (latched : s.eiu.trip.latch = true) (noEsd : s.eiu.esd.latch = false) :
    let p := devicePush .tripIsolate { s with eiu := { s.eiu with trip := { s.eiu.trip with latch := false } } }
    exec .tripEvent s = .next (if s.role = .consumer then (offerFrame (newFrame (.yield 0) .eiu) p).2 else p) := by
  intro p
  have role : p.role = s.role := (stackWork_devicePush _ _).role
  change execTripEvent s = _
  unfold execTripEvent
  rw [if_pos (by simp [latched, noEsd]), ← role]
  rfl

/-- Settles O48, by the role and what the offer of the YIELD comes to. -/
theorem tripEventTaken : Obligations.TripEventTaken := by
  unfold Obligations.TripEventTaken
  intro s latched noEsd p rounds
  have takes : exec .tripEvent s =
      .next (if s.role = .consumer then (offerFrame (newFrame (.yield 0) .eiu) p).2 else p) :=
    exec_tripEvent latched noEsd
  have lc : p.lc = s.lc := (stackWork_devicePush _ _).lc
  have ae : p.ae = s.ae := (stackWork_devicePush _ _).ae
  have admitted : (s.ae.join = .joined ∨ s.ae.join = .diverged) → s.lc.muted = false →
      admits p.ae.join p.lc.muted (.yield 0 : FrameBody) = true := by
    rw [lc, ae]
    exact fun joined unmuted => admits_of_inRounds joined unmuted _
  refine ⟨fun other => ?_, fun consumer ⟨joined, unmuted, room⟩ => ?_, fun consumer ⟨joined, unmuted⟩ full => ?_,
    fun outside => ?_⟩
  · rw [takes, if_neg other]
  · rw [takes, if_pos consumer, ← lc,
      offerFrame_ordinary_of_room (admitted joined unmuted) rfl (by rw [lc]; exact room)]
    rfl
  · rw [takes, if_pos consumer, offerFrame_ordinary_of_full (admitted joined unmuted) rfl (by rw [lc]; exact full)]
    rfl
  · rw [takes, offerFrame_of_refused (by rw [ae]; exact admits_of_outside outside _ rfl)]
    exact congrArg _ (ite_self _)

/-! PERMIT (R148). -/

/-- The node of a PERMIT event past its withdrawals, before it offers a frame. -/
def permitFreed (s : State) : State :=
  let unheld :=
    deviceWithdraw .tripIsolate (deviceWithdraw .esdIsolate
      { s with
        eiu := { s.eiu with permit := { s.eiu.permit with latch := false }, tripOutstanding := false }
        ae := { s.ae with hold := s.ae.hold.filter fun h => decide (h ≠ .trip) } })
  if s.ae.join = .joined ∧ s.ae.ownLive = true ∧ s.ownEntry.presence = .live then
    deviceWithdraw .startHold unheld
  else unheld

theorem stackWork_permitFreed (s : State) :
    StackWork
      { s with
        eiu := { s.eiu with permit := { s.eiu.permit with latch := false }, tripOutstanding := false }
        ae := { s.ae with hold := s.ae.hold.filter fun h => decide (h ≠ .trip) } }
      (permitFreed s) := by
  unfold permitFreed
  have twice := (stackWork_deviceWithdraw .esdIsolate
    { s with
      eiu := { s.eiu with permit := { s.eiu.permit with latch := false }, tripOutstanding := false }
      ae := { s.ae with hold := s.ae.hold.filter fun h => decide (h ≠ .trip) } }).trans
    (stackWork_deviceWithdraw .tripIsolate _)
  dsimp only
  split
  · exact twice.trans (stackWork_deviceWithdraw .startHold _)
  · exact twice

/-- The CLEAR of a PERMIT event, where it is due: offered, or held. -/
def permitCleared (due : Bool) (s : State) : State :=
  if due then offerOrHold (.clear s.address) (.clear s.address) s else s

theorem permitCleared_change {change : State → State} (pass : Passes change) {s : State}
    (address : (change s).address = s.address) (due : Bool) :
    permitCleared due (change s) = change (permitCleared due s) := by
  unfold permitCleared
  rw [address, offerOrHold_change pass]
  split <;> rfl

theorem queueWork_permitCleared (due : Bool) (s : State) : QueueWork s (permitCleared due s) := by
  cases due
  · exact QueueWork.refl s
  · exact Steps.queueWork_offerOrHold _ _ s

/-- The CLAIM of a PERMIT event at a consumer (R148). -/
def permitClaim (s : State) : QueuedFrame :=
  { body := .claim
      { tier := s.ae.lastTier, minMethane := (s.profileWord 11).toNat, draws := imageDraws s.pp.image }
    originator := .eiu, tracked := false, collisions := 0 }

/-- The actions of a PERMIT event with all withdrawals put first: none of them reads what a frame's offer alters. -/
theorem permitActions_eq (s : State) :
    let u := permitCleared (holdsStation s.ae.committed.trips s.address || s.eiu.tripOutstanding) (permitFreed s)
    permitActions (s.setEiu { s.eiu with permit := takenInput s.eiu.permit }) =
      if s.role = .consumer ∧ (s.profileWord 0).getLsbD 1 = true then (offerFrame (permitClaim s) u).2 else u := by
  intro u
  let due := holdsStation s.ae.committed.trips s.address || s.eiu.tripOutstanding
  let taken := s.setEiu { s.eiu with permit := takenInput s.eiu.permit }
  let cleared : EventInputUnit := { taken.eiu with tripOutstanding := false }
  let withdrawn := dropHeldTrip (deviceWithdraw .tripIsolate (deviceWithdraw .esdIsolate taken))
  let unheld := deviceWithdraw .tripIsolate (deviceWithdraw .esdIsolate (dropHeldTrip (taken.setEiu cleared)))
  have twice := (stackWork_deviceWithdraw .esdIsolate taken).trans (stackWork_deviceWithdraw .tripIsolate _)
  have eiu : withdrawn.eiu = taken.eiu := twice.eiu
  have address : withdrawn.address = s.address := twice.address
  have trips : withdrawn.ae.committed.trips = s.ae.committed.trips := congrArg (·.committed.trips) twice.ae
  have moved : withdrawn.setEiu cleared = unheld := by
    simp only [unheld, deviceWithdraw_dropHeldTrip, deviceWithdraw_setEiu]
    rfl
  have clears : clearOwnTrip withdrawn = permitCleared due unheld := by
    have dueThere : (holdsStation withdrawn.ae.committed.trips withdrawn.address || withdrawn.eiu.tripOutstanding) =
        due := by rw [trips, address, eiu]; rfl
    have stays : (permitCleared due withdrawn).eiu = taken.eiu := (queueWork_permitCleared due withdrawn).eiu.trans eiu
    have unfolded : clearOwnTrip withdrawn =
        (permitCleared (holdsStation withdrawn.ae.committed.trips withdrawn.address || withdrawn.eiu.tripOutstanding)
          withdrawn).setEiu
          { (permitCleared (holdsStation withdrawn.ae.committed.trips withdrawn.address ||
              withdrawn.eiu.tripOutstanding) withdrawn).eiu with tripOutstanding := false } := rfl
    rw [unfolded, dueThere, stays, ← moved]
    exact (permitCleared_change (passes_setEiu cleared) rfl due).symm
  have frees : (if s.mayRelease = true then deviceWithdraw .startHold (clearOwnTrip withdrawn)
      else clearOwnTrip withdrawn) = u := by
    have same : permitFreed s = if s.mayRelease = true then deviceWithdraw .startHold unheld else unheld := by
      by_cases may : s.ae.join = .joined ∧ s.ae.ownLive = true ∧ s.ownEntry.presence = .live
      · rw [if_pos ((Panel.mayRelease_eq_true_iff s).2 may)]
        exact if_pos may
      · rw [if_neg (mt (Panel.mayRelease_eq_true_iff s).1 may)]
        exact if_neg may
    change _ = permitCleared due (permitFreed s)
    rw [clears, same]
    split
    · exact (permitCleared_change (passes_deviceWithdraw .startHold)
        (stackWork_deviceWithdraw .startHold unheld).address due).symm
    · rfl
  have unfolded : permitActions taken =
      let d := if s.mayRelease = true then deviceWithdraw .startHold (clearOwnTrip withdrawn) else clearOwnTrip withdrawn
      if d.role = .consumer ∧ d.autoResume = true then offerInput (d.claimFor d.ae.lastTier) d else d := rfl
  have freed := stackWork_permitFreed s
  have work := queueWork_permitCleared due (permitFreed s)
  have role : u.role = s.role := work.role.trans freed.role
  have image : u.pp.image = s.pp.image := by rw [work.pp, freed.pp]
  have tier : u.ae.lastTier = s.ae.lastTier := by rw [work.ae, freed.ae]
  have claim : newFrame (u.claimFor u.ae.lastTier) .eiu = permitClaim s := by
    unfold State.claimFor State.profileWord newFrame
    rw [image, tier]
    rfl
  change permitActions taken = _
  rw [unfolded, frees]
  unfold State.autoResume State.profileWord offerInput
  dsimp only
  rw [claim, role, image]

theorem exec_permitEvent {s : State} (latched : s.eiu.permit.latch = true) (noEsd : s.eiu.esd.latch = false)
    (noTrip : s.eiu.trip.latch = false) :
    let u := permitCleared (holdsStation s.ae.committed.trips s.address || s.eiu.tripOutstanding) (permitFreed s)
    exec .permitEvent s =
      .next (settle
        (if s.role = .consumer ∧ (s.profileWord 0).getLsbD 1 = true then (offerFrame (permitClaim s) u).2 else u)) := by
  intro u
  change execPermitEvent s = _
  unfold execPermitEvent
  rw [if_pos (by simp [latched, noEsd, noTrip]), permitActions_eq]

/-- The offer of a PERMIT's CLAIM with room. -/
theorem permitClaim_of_room {s u : State} (admitted : ∀ body, admits u.ae.join u.lc.muted body = true)
    (room : u.lc.queue.length < 8) : (offerFrame (permitClaim s) u).2 = appended (permitClaim s) u := by
  rw [offerFrame_ordinary_tail (admitted _) rfl room]

/-- The offer of a PERMIT's CLAIM at a full queue. -/
theorem permitClaim_of_full {s u : State} (admitted : ∀ body, admits u.ae.join u.lc.muted body = true)
    (full : 8 ≤ u.lc.queue.length) : (offerFrame (permitClaim s) u).2 = raised (discarded u) .notTaken := by
  rw [offerFrame_ordinary_of_full (admitted _) rfl full]
  rfl

theorem length_behindHead (q : QueuedFrame) (w : List QueuedFrame) : (behindHead q w).length = w.length + 1 := by
  have h := List.length_eq_length_filter_add (l := w) (ofClass FrameClass.head)
  simp only [behindHead, List.length_append, List.length_cons]
  omega

theorem length_requeued (s : State) (w : List QueuedFrame) :
    (requeued s w).lc.queue.length + (waitingFrames s.lc).length = s.lc.queue.length + w.length := by
  have h := length_front s.lc
  simp only [requeued, List.length_append]
  omega

theorem requeued_waiting (s : State) : requeued s (waitingFrames s.lc) = s := by
  unfold requeued
  rw [front_append_waiting]

theorem appended_requeued (s : State) (w : List QueuedFrame) (q : QueuedFrame) :
    appended q (requeued s w) = requeued s (w ++ [q]) := by
  simp only [appended, requeued, State.setLc, List.append_assoc]

/-- Settles O49, by what the offers of the CLEAR and of the CLAIM come to. -/
theorem permitEventTaken : Obligations.PermitEventTaken := by
  unfold Obligations.PermitEventTaken
  intro s latched noEsd noTrip few due resumes rounds unheld freed held clear claim cleared lost
  have takes := exec_permitEvent latched noEsd noTrip
  have work := stackWork_permitFreed s
  have lc : freed.lc = s.lc := work.lc
  have ttu : freed.ttu = s.ttu := work.ttu
  have join : freed.ae.join = s.ae.join := congrArg (·.join) work.ae
  have address : freed.address = s.address := work.address
  have dueNow : (holdsStation s.ae.committed.trips s.address || s.eiu.tripOutstanding) = decide due := by
    rw [Bool.eq_iff_iff]
    simp [due, holdsStation]
  have clears : ∀ {b : Bool} {t : State}, due → offerFrame clear freed = (b, t) →
      permitCleared (decide due) freed = if b = true then t else holdFrame (.clear s.address) t := by
    intro b t isDue offered
    rw [decide_eq_true isDue]
    change offerOrHold (.clear freed.address) (.clear freed.address) freed = _
    rw [address]
    cases b
    · exact offerOrHold_of_refused offered
    · exact offerOrHold_of_admitted offered
  have stays : ¬ due → permitCleared (decide due) freed = freed := fun notDue => by rw [decide_eq_false notDue]; rfl
  rw [dueNow] at takes
  change exec .permitEvent s = .next (settle
    (if resumes then (offerFrame claim (permitCleared (decide due) freed)).2 else permitCleared (decide due) freed)) at takes
  have calm : ∀ {u : State},
      (if resumes then (offerFrame claim (permitCleared (decide due) freed)).2
        else permitCleared (decide due) freed) = u → u.ttu = s.ttu → exec .permitEvent s = .next u := by
    intro u acted same
    rw [takes, acted, settle_of_lt (same ▸ few)]
  have admitted : (s.ae.join = .joined ∨ s.ae.join = .diverged) → s.lc.muted = false →
      ∀ body, admits freed.ae.join freed.lc.muted body = true := by
    rw [join, lc]
    exact fun joined unmuted => admits_of_inRounds joined unmuted
  have hasRoom : (s.ae.join = .joined ∨ s.ae.join = .diverged) → s.lc.muted = false →
      s.lc.queue.length + (if due then 1 else 0) ≤ 8 → permitCleared (decide due) freed = requeued freed cleared := by
    intro joined unmuted room
    by_cases isDue : due
    · rw [if_pos isDue] at room
      have offered := offerFrame_head_of_room (q := clear) (admitted joined unmuted _) rfl (by rw [lc]; omega)
      rw [clears isDue offered, lc]
      simp only [cleared, if_pos isDue, if_true]
    · rw [stays isDue]
      simp only [cleared, if_neg isDue, ← lc, requeued_waiting]
  have length : (requeued freed cleared).lc.queue.length = s.lc.queue.length + (if due then 1 else 0) := by
    have h := length_requeued freed cleared
    rw [lc] at h
    by_cases isDue : due
    · simp only [cleared, if_pos isDue, length_behindHead] at h ⊢
      omega
    · simp only [cleared, if_neg isDue] at h ⊢
      omega
  refine ⟨fun notDue notResumes => ?_, fun ⟨joined, unmuted⟩ room => ?_, fun ⟨joined, unmuted⟩ resume full => ?_,
    fun ⟨joined, unmuted⟩ isDue full none_waits => ?_, fun ⟨joined, unmuted⟩ isDue full waits => ?_, fun outside => ?_⟩
  · exact calm (by rw [if_neg notResumes, stays notDue]) ttu
  · refine calm ?_ ttu
    rw [hasRoom joined unmuted (by omega)]
    by_cases resume : resumes
    · rw [if_pos resume] at room
      rw [if_pos resume, if_pos resume]
      exact (permitClaim_of_room (u := requeued freed cleared) (admitted joined unmuted) (by omega)).trans (appended_requeued ..)
    · rw [if_neg resume, if_neg resume]
  · refine calm (u := lost (requeued freed cleared)) ?_ ?_
    · rw [hasRoom joined unmuted (by omega)]
      simp only [lost, if_pos resume]
      exact permitClaim_of_full (u := requeued freed cleared) (admitted joined unmuted) (by omega)
    · simp only [lost, if_pos resume]
      exact ttu
  · have offered := offerFrame_head_of_full (q := clear) (admitted joined unmuted _) rfl (by rw [lc]; omega)
      (by rw [lc]; exact none_waits)
    have holds : permitCleared (decide due) freed = discarded held := by rw [clears isDue offered]; rfl
    refine calm (u := lost (discarded held)) ?_ ?_
    · rw [holds]
      by_cases resume : resumes
      · simp only [lost, if_pos resume]
        refine permitClaim_of_full (u := discarded held) (admitted joined unmuted) ?_
        change 8 ≤ freed.lc.queue.length
        rw [lc]
        omega
      · simp only [lost, if_neg resume]
    · by_cases resume : resumes
      · simp only [lost, if_pos resume]
        exact ttu
      · simp only [lost, if_neg resume]
        exact ttu
  · have first : (offerFrame clear freed).1 = true :=
      offerFrame_head_of_ordinary (admitted joined unmuted _) rfl (by rw [lc]; exact waits)
    have offered := clears isDue (b := (offerFrame clear freed).1) (t := (offerFrame clear freed).2) rfl
    rw [if_pos first] at offered
    rw [takes, offered, settle_eq_afterFailures]
  · have refused : ∀ {q : QueuedFrame} {u : State}, listeningFrame q.body = false → u.ae.join = s.ae.join →
        offerFrame q u = (false, u) := fun notListening same =>
      offerFrame_of_refused (by rw [same]; exact admits_of_outside outside _ notListening)
    have after : permitCleared (decide due) freed = if due then held else freed := by
      by_cases isDue : due
      · rw [clears isDue (refused rfl join), if_pos isDue]
        rfl
      · rw [stays isDue, if_neg isDue]
    have joinAfter : (if due then held else freed).ae.join = s.ae.join := by
      split
      · exact join
      · exact join
    have ttuAfter : (if due then held else freed).ttu = s.ttu := by
      split
      · exact ttu
      · exact ttu
    refine calm ?_ ttuAfter
    rw [after, refused rfl joinAfter]
    exact ite_self _

end Sys2Proof.Inputs
end

section
/-! SUPPORT. The Override Stack: what its entries decide, the room made for an entry, the entry withdrawn, and the
device's and the panel's pushes (R130 to R139). -/

namespace Sys2Proof.Overrides

open Sys2Proof.Machine Sys2Proof.Safety Sys2Proof.Laws Sys2Proof.Terms Sys2Proof.Panel

/-! What the stack decides (R131, R139). -/

theorem isolates_eq_true_iff (e : OverrideEntry) : isolates e = true ↔ isolatesNow e := by
  obtain ⟨kind, value, captured, round, void, expiries⟩ := e
  unfold isolates isolatingEntry isolatesNow
  cases kind <;> cases void <;> simp

theorem isolatingPresent_eq_true_iff (stack : List OverrideEntry) :
    isolatingPresent stack = true ↔ ∃ e ∈ stack, isolatesNow e := by
  simp only [isolatingPresent, List.any_eq_true, isolates_eq_true_iff]

theorem isolates_eq_false {e : OverrideEntry} (h : ¬ isolatesNow e) : isolates e = false :=
  Bool.eq_false_iff.2 (mt (isolates_eq_true_iff e).1 h)

/-- The governing kind where isolating is present: the uppermost isolating entry's. -/
theorem governingKind_of_isolating {above below : List OverrideEntry} {e : OverrideEntry} (isolating : isolatesNow e)
    (uppermost : ∀ x ∈ above, ¬ isolatesNow x) : governingKind (above ++ e :: below) = .override e.kind := by
  have found : (above ++ e :: below).find? isolates = some e := by
    rw [List.find?_append, List.find?_eq_none.2 fun x mem => by simp [isolates_eq_false (uppermost x mem)]]
    simp [(isolates_eq_true_iff e).2 isolating]
  unfold governingKind
  rw [found]

/-- Where none isolates, the governing entry decides. -/
theorem governingKind_of_governing {stack : List OverrideEntry} {e : OverrideEntry}
    (calm : ∀ x ∈ stack, ¬ isolatesNow x) (governs : governingEntry stack = some e) :
    governingKind stack = .override e.kind := by
  have none_found : stack.find? isolates = none :=
    List.find?_eq_none.2 fun x mem => by simp [isolates_eq_false (calm x mem)]
  unfold governingKind
  rw [none_found, governs]

theorem governingKind_of_base {stack : List OverrideEntry} (calm : ∀ x ∈ stack, ¬ isolatesNow x)
    (base : governingEntry stack = none) : governingKind stack = .base := by
  have none_found : stack.find? isolates = none :=
    List.find?_eq_none.2 fun x mem => by simp [isolates_eq_false (calm x mem)]
  unfold governingKind
  rw [none_found, base]

theorem governingEntry_append {above below : List OverrideEntry} {e : OverrideEntry} (counts : e.void = false)
    (void : ∀ x ∈ above, x.void = true) : governingEntry (above ++ e :: below) = some e := by
  unfold governingEntry
  rw [List.find?_append, List.find?_eq_none.2 fun x mem => by simp [void x mem]]
  simp [counts]

theorem governingEntry_of_void {stack : List OverrideEntry} (void : ∀ x ∈ stack, x.void = true) :
    governingEntry stack = none :=
  List.find?_eq_none.2 fun x mem => by simp [void x mem]

/-- A duty of at most 1023 fits its ten bits. -/
theorem toNat_duty (n : Nat) : (BitVec.ofNat 10 (min 1023 n)).toNat = min 1023 n := by
  rw [BitVec.toNat_ofNat]
  omega

theorem toNat_dutyOfSetpoint (setpoint capacity : Word16) :
    (dutyOfSetpoint setpoint capacity).toNat = min 1023 (setpoint.toNat * 1023 / capacity.toNat) := toNat_duty _

theorem toNat_lesser (v w : Word16) : (if v.toNat ≤ w.toNat then v else w).toNat = min v.toNat w.toNat := by
  split
  · rename_i h
    exact (Nat.min_eq_left h).symm
  · rename_i h
    exact (Nat.min_eq_right (Nat.le_of_lt (Nat.not_le.1 h))).symm

/-- The target of a new stack, by the entry that governs it. -/
theorem target_withStack {s : State} {stack : List OverrideEntry} {governing : Option OverrideEntry}
    (governs : governingEntry stack = governing) :
    (withStack s stack).vd.target =
      (targetOf governing s.vd.baseSetpoint (s.profileWord 2)).getD s.vd.target := by
  subst governs
  rfl

/-- A kind of the isolating class sets no duty. -/
theorem targetOf_of_isolating {e : OverrideEntry} (isolating : isolatingEntry e = true) (v capacity : Word16) :
    targetOf (some e) v capacity = none := if_pos isolating

theorem isolatingEntry_of_kind {e : OverrideEntry}
    (kind : e.kind ∈ [OverrideKind.startHold, .esdIsolate, .tripIsolate, .plantTripIsolate, .isolate]) :
    isolatingEntry e = true := by
  unfold isolatingEntry
  simp only [List.mem_cons, List.not_mem_nil, or_false] at kind
  rcases kind with h | h | h | h | h <;> rw [h]

/-- Settles O51: the level, the governing kind, and the target of each kind on top. -/
theorem targetDuty : Obligations.TargetDuty := by
  unfold Obligations.TargetDuty
  intro s stack t setpoint capacity
  refine ⟨rfl, ?_, ?_, ?_, ?_, ?_⟩
  · have level : t.shut = !isolatingPresent stack := rfl
    rw [level, ← isolatingPresent_eq_true_iff]
    cases isolatingPresent stack <;> simp
  · rintro above e below rfl isolating uppermost
    exact governingKind_of_isolating isolating uppermost
  · intro calm
    refine ⟨?_, fun void => governingKind_of_base calm (governingEntry_of_void void)⟩
    rintro above e below split counts void
    exact governingKind_of_governing calm (by rw [split]; exact governingEntry_append counts void)
  · rintro rfl
    have target := target_withStack (s := s) (stack := []) (governing := none) rfl
    exact (congrArg BitVec.toNat target).trans (toNat_dutyOfSetpoint ..)
  · rintro e rest rfl counts
    have target := target_withStack (s := s) (governingEntry_append (above := []) (below := rest) counts (by simp))
    have stands : isolatingEntry e = true → t.vd.target = s.vd.target := fun isolating => by
      rw [show t.vd.target = _ from target, targetOf_of_isolating isolating]
      rfl
    have sets : ∀ duty, targetOf (some e) s.vd.baseSetpoint (s.profileWord 2) = some duty → t.vd.target = duty :=
      fun duty set => by
        rw [show t.vd.target = _ from target, set]
        rfl
    refine ⟨fun kind => ?_, fun kind => ?_, fun kind few => ?_, fun kind many => ?_, fun kind => ?_, fun kind => ?_⟩
    · rw [sets (dutyOfSetpoint (if s.vd.baseSetpoint.toNat ≤ e.value.toNat then s.vd.baseSetpoint else e.value)
        (s.profileWord 2)) (by simp [targetOf, isolatingEntry, kind]), toNat_dutyOfSetpoint, toNat_lesser]
    · exact sets e.captured (by simp [targetOf, isolatingEntry, kind])
    · exact sets e.captured (by simp [targetOf, isolatingEntry, kind, few])
    · exact stands (by simp [isolatingEntry, kind, many])
    · rw [sets (BitVec.ofNat 10 (min 1023 e.value.toNat)) (by simp [targetOf, isolatingEntry, kind]), toNat_duty]
    · exact stands (isolatingEntry_of_kind kind)

/-! Room made for an entry (R134). -/

theorem removeLowest_append {p : OverrideEntry → Bool} {above below : List OverrideEntry} {e : OverrideEntry}
    (removed : p e = true) (lowest : ∀ x ∈ below, p x = false) :
    removeLowest p (above ++ e :: below) = above ++ below := by
  unfold removeLowest
  rw [List.reverse_append, List.reverse_cons, List.append_assoc,
    List.eraseP_append_right _ fun x mem => by simp [lowest x (List.mem_reverse.1 mem)]]
  simp [removed]

theorem dropVoidTop_of_counting {stack : List OverrideEntry} (counts : ∀ e ∈ stack.head?, e.void = false) :
    dropVoidTop stack = stack := by
  cases stack with
  | nil => rfl
  | cons a l => simp [dropVoidTop, counts a (by simp)]

theorem makeRoom_of_room {stack : List OverrideEntry} (room : stack.length < 5) : makeRoom stack = some (stack, false) :=
  if_pos room

/-- A full stack gives up its lowest VOID entry first. -/
theorem makeRoom_of_void {above below : List OverrideEntry} {e : OverrideEntry}
    (full : 5 ≤ (above ++ e :: below).length) (void : e.void = true) (lowest : ∀ x ∈ below, x.void = false) :
    makeRoom (above ++ e :: below) = some (above ++ below, false) := by
  have noRoom : ¬ (above ++ e :: below).length < stackCapacity := Nat.not_lt.2 full
  unfold makeRoom
  rw [if_neg noRoom, if_pos (by simp [void]), removeLowest_append void lowest]

/-- Without a VOID entry it gives up its lowest PANEL entry. -/
theorem makeRoom_of_panel {above below : List OverrideEntry} {e : OverrideEntry}
    (full : 5 ≤ (above ++ e :: below).length) (panel : panelKind e.kind = true)
    (counting : ∀ x ∈ above ++ e :: below, x.void = false) (lowest : ∀ x ∈ below, panelKind x.kind = false) :
    makeRoom (above ++ e :: below) = some (above ++ below, true) := by
  have noRoom : ¬ (above ++ e :: below).length < stackCapacity := Nat.not_lt.2 full
  have noVoid : ¬ (above ++ e :: below).any (·.void) = true := by
    rw [List.any_eq_true]
    rintro ⟨x, mem, void⟩
    rw [counting x mem] at void
    exact absurd void (by decide)
  have top : dropVoidTop (above ++ below) = above ++ below := by
    refine dropVoidTop_of_counting fun x head => counting x ?_
    rcases List.mem_append.1 (List.mem_of_mem_head? head) with mem | mem
    · exact List.mem_append_left _ mem
    · exact List.mem_append_right _ (List.mem_cons_of_mem _ mem)
  unfold makeRoom
  rw [if_neg noRoom, if_neg noVoid, if_pos (by simp [panel]), removeLowest_append panel lowest, top]

/-- Five device entries give up none. -/
theorem makeRoom_of_devices {stack : List OverrideEntry} (full : 5 ≤ stack.length)
    (devices : ∀ x ∈ stack, x.void = false ∧ panelKind x.kind = false) : makeRoom stack = none := by
  have noRoom : ¬ stack.length < stackCapacity := Nat.not_lt.2 full
  have noVoid : ¬ stack.any (·.void) = true := by
    rw [List.any_eq_true]
    rintro ⟨x, mem, void⟩
    rw [(devices x mem).1] at void
    exact absurd void (by decide)
  have noPanel : ¬ stack.any (fun e => panelKind e.kind) = true := by
    rw [List.any_eq_true]
    rintro ⟨x, mem, panel⟩
    rw [(devices x mem).2] at panel
    exact absurd panel (by decide)
  unfold makeRoom
  rw [if_neg noRoom, if_neg noVoid, if_neg noPanel]

theorem placeOverride_of_room {kind : OverrideKind} {value : Word16} {s : State} {stack : List OverrideEntry}
    {dropped : Bool} (room : makeRoom s.ovs.stack = some (stack, dropped)) :
    placeOverride kind value s =
      (true, raiseIf dropped .stackDrop
        (withStack s (newOverride kind value (s.setOvs { stack }) :: stack))) := by
  unfold placeOverride
  rw [room]

/-! The entry placed (R130, R137). -/

theorem newOverride_of_device {kind : OverrideKind} (device : panelKind kind = false) (s : State)
    (stack : List OverrideEntry) : newOverride kind 0 (s.setOvs { stack }) = deviceEntry s kind stack := by
  have present : (s.setOvs { stack }).isolating = isolatingPresent stack := rfl
  unfold newOverride capturedDuty deviceEntry
  rw [present]
  cases kind with
  | rejoinHold => cases isolatingPresent stack <;> rfl
  | limit => simp [panelKind] at device
  | hold => simp [panelKind] at device
  | fixed => simp [panelKind] at device
  | isolate => simp [panelKind] at device
  | _ => rfl

theorem newOverride_of_panel {kind : OverrideKind} (panel : panelKind kind = true) (value : Word16) (s : State)
    (stack : List OverrideEntry) :
    newOverride kind value (s.setOvs { stack }) =
      { kind, value, round := s.ae.round, void := false, expiries := 0,
        captured := if kind = .hold ∧ isolatingPresent stack = false then s.vd.applied else 0 } := by
  have present : (s.setOvs { stack }).isolating = isolatingPresent stack := rfl
  unfold newOverride capturedDuty
  rw [present]
  cases kind with
  | hold => cases isolatingPresent stack <;> rfl
  | limit => rfl
  | fixed => rfl
  | isolate => rfl
  | _ => simp [panelKind] at panel

/-! The entry withdrawn (R135). -/

theorem withdrawEntry_append {p : OverrideEntry → Bool} {above below : List OverrideEntry} {e : OverrideEntry}
    (admitted : p e = true) (counts : e.void = false) (topmost : ∀ x ∈ above, p x = true → x.void = true) :
    withdrawEntry p (above ++ e :: below) = above ++ { e with void := true } :: below := by
  induction above with
  | nil => simp [withdrawEntry, admitted, counts]
  | cons a l ih =>
    have passed : ¬ (p a && !a.void) = true := by
      intro both
      obtain ⟨ofKind, counting⟩ := Bool.and_eq_true_iff.1 both
      rw [topmost a (by simp) ofKind] at counting
      exact absurd counting (by decide)
    rw [List.cons_append, withdrawEntry, if_neg passed, ih fun x mem => topmost x (by simp [mem])]
    rfl

/-- An entry on top goes with the VOID entries under it; one below stays, VOID. -/
theorem withdrawn_append {p : OverrideEntry → Bool} {above below : List OverrideEntry} {e : OverrideEntry}
    (law : stackLaw (above ++ e :: below)) (admitted : p e = true) (counts : e.void = false)
    (topmost : ∀ x ∈ above, p x = true → x.void = true) :
    withdrawn p (above ++ e :: below) =
      if above = [] then below.dropWhile (·.void) else above ++ { e with void := true } :: below := by
  obtain ⟨-, -, top⟩ := law
  unfold withdrawn
  rw [withdrawEntry_append admitted counts topmost]
  cases above with
  | nil => rfl
  | cons a l => exact dropVoidTop_of_counting fun x head => top x (by simpa using head)

/-! The device's pushes and withdrawals (R132, R135). -/

/-- A VOID entry of the kind does not isolate, so its removal leaves the isolating level. -/
theorem isolatingPresent_filter {stack : List OverrideEntry} {kind : OverrideKind}
    (void : ∀ e ∈ stack, e.kind = kind → e.void = true) :
    isolatingPresent (stack.filter fun e => decide (e.kind ≠ kind)) = isolatingPresent stack := by
  rw [Bool.eq_iff_iff, isolatingPresent_eq_true_iff, isolatingPresent_eq_true_iff]
  constructor
  · rintro ⟨e, mem, isolating⟩
    exact ⟨e, List.mem_of_mem_filter mem, isolating⟩
  · rintro ⟨e, mem, isolating⟩
    have other : e.kind ≠ kind := fun ofKind => by
      have counts := isolating.1
      rw [void e mem ofKind] at counts
      exact absurd counts (by decide)
    exact ⟨e, List.mem_filter.2 ⟨mem, decide_eq_true other⟩, isolating⟩

/-- The push of a kind that stands VOID in the stack. -/
theorem devicePush_of_void {kind : OverrideKind} {s : State} (device : panelKind kind = false)
    (absent : ¬ ∃ e ∈ s.ovs.stack, e.kind = kind ∧ e.void = false) (stands : ∃ e ∈ s.ovs.stack, e.kind = kind) :
    devicePush kind s =
      withStack s
        (deviceEntry s kind (s.ovs.stack.filter fun e => decide (e.kind ≠ kind)) ::
          s.ovs.stack.filter fun e => decide (e.kind ≠ kind)) := by
  have void : ∀ e ∈ s.ovs.stack, e.kind = kind → e.void = true := fun e mem ofKind => by
    cases counts : e.void with
    | true => rfl
    | false => exact absurd ⟨e, mem, ofKind, counts⟩ absent
  have same : newOverride kind 0 s = deviceEntry s kind (s.ovs.stack.filter fun e => decide (e.kind ≠ kind)) := by
    have level := isolatingPresent_filter void
    rw [show newOverride kind 0 s = deviceEntry s kind s.ovs.stack from newOverride_of_device device s s.ovs.stack]
    unfold deviceEntry
    rw [level]
  unfold devicePush
  rw [if_neg (by simpa using void), if_pos (by simpa using stands), same]

/-- The push of a kind that the stack does not hold: it makes its room. -/
theorem devicePush_of_room {kind : OverrideKind} {s : State} (device : panelKind kind = false)
    (none_held : ∀ e ∈ s.ovs.stack, e.kind ≠ kind) {stack : List OverrideEntry} {dropped : Bool}
    (room : makeRoom s.ovs.stack = some (stack, dropped)) :
    devicePush kind s = raiseIf dropped .stackDrop (withStack s (deviceEntry s kind stack :: stack)) := by
  have none_counting : ¬ s.ovs.stack.any (fun e => decide (e.kind = kind) && !e.void) = true := by
    simp only [List.any_eq_true, Bool.and_eq_true, decide_eq_true_eq]
    rintro ⟨e, mem, ofKind, -⟩
    exact none_held e mem ofKind
  unfold devicePush
  rw [if_neg none_counting, if_neg (by simpa using none_held), placeOverride_of_room room,
    newOverride_of_device device]

theorem deviceWithdraw_of_absent {kind : OverrideKind} {s : State}
    (absent : ¬ ∃ e ∈ s.ovs.stack, e.kind = kind ∧ e.void = false) : deviceWithdraw kind s = s := by
  unfold deviceWithdraw
  exact if_neg (by simpa using absent)

theorem deviceWithdraw_of_present {kind : OverrideKind} {s : State}
    (present : ∃ e ∈ s.ovs.stack, e.kind = kind ∧ e.void = false) :
    deviceWithdraw kind s = withStack s (withdrawn (fun e => decide (e.kind = kind)) s.ovs.stack) := by
  unfold deviceWithdraw
  exact if_pos (by simpa using present)

/-! The plant trip's entry and the own-presence-LIVE notice (R76, R14). -/

theorem plantTripReconcile_of_other {s : State} (other : s.role ≠ .consumer) : plantTripReconcile s = s := if_pos other

theorem ownLiveNotice_of_live {s : State} (live : s.ownEntry.presence = .live) (unmarked : s.ae.ownLive = false) :
    let freed := deviceWithdraw .rejoinHold { s with ae := { s.ae with ownLive := true } }
    ownLiveNotice s = if (s.profileWord 0).getLsbD 0 = true then deviceWithdraw .startHold freed else freed := by
  intro freed
  have image : freed.pp.image = s.pp.image := by
    rw [(stackWork_deviceWithdraw .rejoinHold { s with ae := { s.ae with ownLive := true } }).pp]
  have unfolded : ownLiveNotice s =
      if s.ownEntry.presence = .live ∧ s.ae.ownLive = false then
        (if (imageWord freed.pp.image 0).getLsbD 0 = true then deviceWithdraw .startHold freed else freed)
      else s := rfl
  rw [unfolded, if_pos ⟨live, unmarked⟩, image]
  rfl

/-- Settles O52, operation by operation. -/
theorem deviceEntries : Obligations.DeviceEntries := by
  unfold Obligations.DeviceEntries
  intro s stack
  refine ⟨fun kind device => ?_, plantTripReconcile_of_other, fun consumer => ⟨fun trips unmarked => ?_,
    fun noTrips marked => ?_, fun inStep => ?_⟩, fun live unmarked => ?_, fun marked => ?_⟩
  · intro present placed
    refine ⟨fun held => ?_, devicePush_of_void device, fun none_held => ⟨fun room => ?_, ?_, ?_⟩,
      deviceWithdraw_of_absent, ?_⟩
    · unfold devicePush
      exact if_pos (by simpa using held)
    · exact devicePush_of_room device none_held (makeRoom_of_room room)
    · intro above e below split full void lowest
      refine devicePush_of_room device none_held (dropped := false) ?_
      rw [split] at full
      rw [show s.ovs.stack = _ from split]
      exact makeRoom_of_void full void lowest
    · intro above e below split full panel counting lowest
      refine devicePush_of_room device none_held (dropped := true) ?_
      rw [split] at full counting
      rw [show s.ovs.stack = _ from split]
      exact makeRoom_of_panel full panel counting lowest
    · intro above e below law split ofKind counts topmost
      rw [deviceWithdraw_of_present ⟨e, by rw [show s.ovs.stack = _ from split]; simp, ofKind, counts⟩,
        show s.ovs.stack = _ from split]
      rw [show stack = _ from split] at law
      rw [withdrawn_append law (decide_eq_true ofKind) counts
        fun x mem sameKind => topmost x mem (of_decide_eq_true sameKind)]
  · unfold plantTripReconcile
    rw [if_neg (not_not_intro consumer), if_pos ⟨trips, unmarked⟩]
    rfl
  · unfold plantTripReconcile
    rw [if_neg (not_not_intro consumer), if_neg (by simp [noTrips]), if_pos ⟨noTrips, marked⟩]
    rfl
  · unfold plantTripReconcile
    rw [if_neg (not_not_intro consumer)]
    cases marked : s.ae.plantTrip with
    | true =>
      have trips := inStep.2 marked
      rw [if_neg (by simp), if_neg fun both => trips both.1]
    | false =>
      have noTrips : s.ae.committed.trips = 0 := by
        by_contra trips
        exact absurd ((inStep.1 trips).symm.trans marked) (by decide)
      rw [if_neg (by simp [noTrips]), if_neg (by simp)]
  · intro freed
    have notice := ownLiveNotice_of_live live unmarked
    exact ⟨fun releases => notice.trans (if_pos releases),
      fun keeps => notice.trans (if_neg (by rw [keeps]; decide))⟩
  · unfold ownLiveNotice
    refine if_neg fun both => ?_
    obtain ⟨live, unmarked⟩ := both
    rcases marked with notLive | isMarked
    · exact notLive live
    · rw [unmarked] at isMarked
      exact absurd isMarked (by decide)

/-! The panel's pushes and pops (R133 to R135). -/

theorem withStack_emptyHolding (s : State) (stack : List OverrideEntry) :
    withStack (emptyHolding s) stack = emptyHolding (withStack s stack) := rfl

/-- A panel entry placed where room is made, STACK-DROP raised where a PANEL entry gave way. -/
theorem placePanel_of_room {kind : OverrideKind} {v value : Word16} {s : State} {stack : List OverrideEntry}
    {dropped : Bool} (panel : panelKind kind = true) (holds : pushValue kind v = value)
    (room : makeRoom s.ovs.stack = some (stack, dropped)) :
    placePanel kind v (emptyHolding s) =
      answered
        (raiseIf dropped .stackDrop
          (withStack s
            ({ kind, value, round := s.ae.round, void := false, expiries := 0,
               captured := if kind = .hold ∧ isolatingPresent stack = false then s.vd.applied else 0 } :: stack)))
        (acceptedReply 0x09 0 0) := by
  have placed := placeOverride_of_room (kind := kind) (value := value) (s := emptyHolding s) room
  rw [newOverride_of_panel panel] at placed
  unfold placePanel
  rw [holds, placed]
  cases dropped <;> rfl

theorem placePanel_of_devices {kind : OverrideKind} {v : Word16} {s : State} (full : 5 ≤ s.ovs.stack.length)
    (devices : ∀ x ∈ s.ovs.stack, x.void = false ∧ panelKind x.kind = false) :
    placePanel kind v (emptyHolding s) = answered (raised s .stackDrop) (refusedReply 0x09 .parameter) := by
  have none_made : makeRoom (emptyHolding s).ovs.stack = none := makeRoom_of_devices full devices
  unfold placePanel placeOverride
  rw [none_made]
  rfl

/-- PUSH past its checks. -/
theorem commandPush_of_kind {w : Word32} {s : State} {kind : OverrideKind}
    (named : pushKindOfCode (argument1 w) = some kind)
    (fits : kind = .fixed → (argumentWord23 w).toNat ≤ (s.profileWord 19).toNat) :
    commandPush w s = placePanel kind (argumentWord23 w) s := by
  unfold commandPush
  rw [named]
  refine if_neg ?_
  rintro ⟨isFixed, above⟩
  exact absurd above (Nat.not_lt.2 (fits isFixed))

/-- POP where a PANEL entry counts: the topmost such entry is withdrawn. -/
theorem commandPop_of_panel {w : Word32} {s : State} {above below : List OverrideEntry} {e : OverrideEntry}
    (split : s.ovs.stack = above ++ e :: below) (law : stackLaw s.ovs.stack) (panel : panelKind e.kind = true)
    (counts : e.void = false) (topmost : ∀ x ∈ above, panelKind x.kind = true → x.void = true) :
    commandPop w s =
      stageReply (acceptedReply codePop (pushCode e.kind) e.round)
        (withStack s
          (if above = [] then below.dropWhile (·.void) else above ++ { e with void := true } :: below)) := by
  have newest : newestPanel s.ovs.stack = some e := by
    unfold newestPanel
    rw [split, List.find?_append, List.find?_eq_none.2 fun x mem => by simpa using topmost x mem]
    simp [panel, counts]
  rw [split] at law
  unfold commandPop
  rw [newest]
  dsimp only
  rw [split, withdrawn_append law panel counts topmost]

/-- Settles O57: PUSH by its checks and the room made, POP by the newest PANEL entry. -/
theorem pushAndPop : Obligations.PushAndPop := by
  unfold Obligations.PushAndPop
  intro s w held v
  refine ⟨fun named => ?_, fun named law => ?_⟩
  · have taken : exec .push s = .next (commandPush w (emptyHolding s)) :=
      congrArg _ (takeHeld_of_held held named commandPush)
    rw [taken]
    refine ⟨fun large => ?_, fun two above => ?_, fun kind value chosen fits => ?_⟩
    · obtain ⟨n, past⟩ : ∃ n, argument1 w = n + 4 := ⟨argument1 w - 4, by omega⟩
      unfold commandPush
      rw [past]
      rfl
    · unfold commandPush
      rw [two]
      exact congrArg _ (if_pos ⟨rfl, above⟩)
    · have kinds : pushKindOfCode (argument1 w) = some kind ∧ panelKind kind = true ∧ pushValue kind v = value := by
        simp only [List.mem_cons, Prod.mk.injEq, List.not_mem_nil, or_false] at chosen
        rcases chosen with ⟨code, rfl, rfl⟩ | ⟨code, rfl, rfl⟩ | ⟨code, rfl, rfl⟩ | ⟨code, rfl, rfl⟩ <;>
          exact ⟨by rw [code]; rfl, rfl, rfl⟩
      obtain ⟨ofCode, panel, holds⟩ := kinds
      rw [commandPush_of_kind (s := emptyHolding s) ofCode fits]
      intro pushed
      refine ⟨fun room => ?_, ?_, ?_, fun full devices => ?_⟩
      · exact congrArg _ (placePanel_of_room panel holds (makeRoom_of_room room))
      · intro above e below split full void lowest
        refine congrArg _ (placePanel_of_room (dropped := false) panel holds ?_)
        rw [split] at full ⊢
        exact makeRoom_of_void full void lowest
      · intro above e below split full isPanel counting lowest
        refine congrArg _ (placePanel_of_room (dropped := true) panel holds ?_)
        rw [split] at full counting ⊢
        exact makeRoom_of_panel full isPanel counting lowest
      · exact congrArg _ (placePanel_of_devices full devices)
  · have taken : exec .pop s = .next (commandPop w (emptyHolding s)) :=
      congrArg _ (takeHeld_of_held held named commandPop)
    rw [taken]
    refine ⟨fun none_counts => ?_, ?_⟩
    · have none_found : newestPanel (emptyHolding s).ovs.stack = none :=
        List.find?_eq_none.2 fun x mem => by simpa using none_counts x mem
      unfold commandPop
      rw [none_found]
      rfl
    · intro above e below split panel counts topmost
      exact congrArg _ (commandPop_of_panel (s := emptyHolding s) split law panel counts topmost)

end Sys2Proof.Overrides
end

section
/-! SUPPORT. The valve period, the scans, and the exchanges of the Panel Port (R140, R151, R152, R155 to R157). -/

namespace Sys2Proof.Exchanges

open Sys2Proof.Machine Sys2Proof.Safety Sys2Proof.Laws Sys2Proof.Terms Sys2Proof.Panel Sys2Proof.Profile
  Sys2Proof.Enabling

/-! The valve period and the scans. -/

/-- VOUT by the moment in the period (R140). -/
theorem vout_eq_true_iff (s : State) :
    s.vout = true ↔ (s.now - s.vd.periodStart) * 1023 < s.vd.applied.toNat * (1000 * s.vd.period) :=
  decide_eq_true_iff

/-- The smoothed value, by the codes' numbers (R152). -/
theorem smoothedValue_eq (codes : List AnalogCode) (span : Nat) :
    smoothedValue codes span =
      (let valid := (codes.map (·.toNat)).filter fun c => decide (700 ≤ c ∧ c ≤ 4000)
      if (codes.map (·.toNat)).length < 8 ∨ 4 ≤ (codes.map (·.toNat)).length - valid.length then none
      else some (BitVec.ofNat 16 (min span ((valid.sum / valid.length - 819) * span / 3276)))) := by
  have valid : (codes.map (·.toNat)).filter (fun c => decide (700 ≤ c ∧ c ≤ 4000)) =
      (codes.filter validCode).map (·.toNat) := by
    rw [List.filter_map]
    rfl
  dsimp only
  rw [valid, List.length_map, List.length_map]
  rfl

theorem wentInvalid_eq_true_iff (before after : Option Word16) :
    wentInvalid before after = true ↔ before ≠ none ∧ after = none := by
  unfold wentInvalid
  rw [Bool.and_eq_true, Option.isSome_iff_ne_none, Option.isNone_iff_eq_none]

/-- SAMPLE-INVALID by the channels that the role uses (R151). -/
theorem sampleLost_eq_true_iff (role : Role) (before after : Channels) :
    sampleLost role before after = true ↔
      (before.ch0 ≠ none ∧ after.ch0 = none) ∨ (before.ch2 ≠ none ∧ after.ch2 = none) ∨
        (role = .producer ∧ before.ch1 ≠ none ∧ after.ch1 = none) ∨
        (role = .store ∧ before.ch3 ≠ none ∧ after.ch3 = none) := by
  unfold sampleLost
  simp only [Bool.or_eq_true, Bool.and_eq_true, decide_eq_true_eq, wentInvalid_eq_true_iff, or_assoc]

theorem exec_scanComplete {s : State} {since : Nat} (scanning : s.smp.scanning = some since) (codes : ScanCodes) :
    exec (.scanComplete codes) s = .next (completeScan codes (advanceTo (since + scanTime) s)) := by
  change execScanComplete codes s = _
  unfold execScanComplete
  rw [scanning]

/-- A scan complete, with SAMPLE-INVALID by the values before it and after. -/
theorem completeScan_eq (codes : ScanCodes) (s : State) :
    let m := completedSampler s.smp codes
    completeScan codes s =
      if sampleLost s.role s.smp.smoothed m.smoothed = true then raised (s.setSmp m) .sampleInvalid else s.setSmp m := rfl

/-- Settles O53: the period, VOUT, and the two moments of a scan. -/
theorem periodAndScan : Obligations.PeriodAndScan := by
  unfold Obligations.PeriodAndScan
  intro s
  refine ⟨rfl, vout_eq_true_iff s, fun zero => ?_, fun full started inside => ?_, fun idle => ?_, ?_⟩
  · rw [Bool.eq_false_iff, Ne, vout_eq_true_iff, zero]
    simp
  · rw [vout_eq_true_iff, full]
    change (s.now - s.vd.periodStart) * 1023 < 1023 * (1000 * s.vd.period)
    omega
  · change execScanStart s = _
    unfold execScanStart
    rw [idle]
    rfl
  · intro since codes scanning history smoothed after completed lost
    rw [exec_scanComplete scanning, completeScan_eq]
    have figures : (completedSampler s.smp codes).smoothed = after := by
      have each : ∀ (channel : ScanCodes → AnalogCode) (span : Nat),
          smoothedValue (history.map channel) span = smoothed (history.map fun c => (channel c).toNat) span := by
        intro channel span
        rw [smoothedValue_eq, List.map_map]
        rfl
      have ch0 := each (·.ch0) s.smp.span0.toNat
      have ch1 := each (·.ch1) 100
      have ch2 := each (·.ch2) s.smp.span2.toNat
      have ch3 := each (·.ch3) s.smp.span3.toNat
      change Channels.mk (smoothedValue (history.map (·.ch0)) s.smp.span0.toNat) (smoothedValue (history.map (·.ch1)) 100)
        (smoothedValue (history.map (·.ch2)) s.smp.span2.toNat) (smoothedValue (history.map (·.ch3)) s.smp.span3.toNat) = _
      rw [ch0, ch1, ch2, ch3]
    have sampler : (advanceTo (since + scanTime) s).setSmp (completedSampler s.smp codes) = completed := by
      have shape : completedSampler s.smp codes =
          { s.smp with history, scanning := none, smoothed := (completedSampler s.smp codes).smoothed } := rfl
      rw [shape, figures]
      rfl
    refine congrArg _ ?_
    simp only [advanceTo_smp, advanceTo_role, sampler, figures, sampleLost_eq_true_iff]
    rfl

/-! Words shifted out and marks (R155). -/

theorem markBits_eq (p : PanelPort) :
    markBits p = if p.sequenceMark = true ∨ p.overrunMark = true then 0x40000000 else 0 := by
  unfold markBits
  cases p.sequenceMark <;> cases p.overrunMark <;> rfl

theorem exec_exchangeStart {s : State} (idle : s.pp.exchange = .none) :
    exec .exchangeStart s =
      .next (s.setPp { s.pp with exchange := .shifting (fixedWord s.pp).1 (fixedWord s.pp).2 }) := by
  change execExchangeStart s = _
  unfold execExchangeStart
  rw [idle]

/-! The end of an exchange (R155). -/

theorem exec_exchangeEnd_void {s : State} {word : Word32} {isReply : Bool} {edges : Nat}
    (shifting : s.pp.exchange = .shifting word isReply) (short : edges ≠ 32) (w : Word32) (first : Bool) :
    exec (.exchangeEnd edges w first) s = .next (s.setPp (voidExchange s.pp)) := by
  change execExchangeEnd edges w first s = _
  unfold execExchangeEnd
  rw [shifting]
  exact congrArg _ (if_neg short)

theorem exec_exchangeEnd_voided {s : State} (voided : s.pp.exchange = .voided) (edges : Nat) (w : Word32)
    (first : Bool) : exec (.exchangeEnd edges w first) s = .next (s.setPp (voidExchange s.pp)) := by
  change execExchangeEnd edges w first s = _
  unfold execExchangeEnd
  rw [voided]

/-- The node past the first steps of a good exchange: a reply read is emptied, the marks are cleared. -/
def exchanged (isReply : Bool) (s : State) : State := s.setPp (endExchange isReply s.pp)

theorem exchanged_eq (isReply : Bool) (s : State) :
    exchanged isReply s =
      { s with
        pp :=
          { s.pp with
            reply := if isReply = true then s.pp.outcome else s.pp.reply
            outcome := if isReply = true then none else s.pp.outcome
            sequenceMark := false
            overrunMark := false
            exchange := .none } } := by
  cases isReply <;> rfl

theorem exec_exchangeEnd_good {s : State} {word : Word32} {isReply : Bool}
    (shifting : s.pp.exchange = .shifting word isReply) (w : Word32) (first : Bool) :
    exec (.exchangeEnd 32 w first) s =
      .next
        (if commandCode w = 0x11 then takeCancel s.pp.outcome.isSome isReply first (exchanged isReply s)
        else takeWord w first (exchanged isReply s)) := by
  change execExchangeEnd 32 w first s = _
  unfold execExchangeEnd
  rw [shifting]
  exact congrArg _ (if_pos rfl)

/-! The handler's taking of whatever command is held (R156). -/

theorem takeable_of_not_held {s : State} (h : ∀ w, ¬ Held s w) (code : Nat → Bool) : s.takeable code = none := by
  refine takeable_eq_none fun w holding _ => ?_
  by_contra both
  obtain ⟨noReply, noOutcome⟩ := not_or.1 both
  exact h w ⟨holding, not_not.1 noReply, not_not.1 noOutcome⟩

theorem handlerTakes_of_not_held {s : State} (h : ∀ w, ¬ Held s w) : handlerTakes s = s := by
  unfold handlerTakes
  rw [takeable_of_not_held h]

theorem handlerTakes_of_held {s : State} {w : Word32} (held : Held s w) :
    handlerTakes s = performCommand w (emptyHolding s) := by
  unfold handlerTakes
  rw [takeable_of_held held rfl]

/-- The command of a row is what the handler performs for its code. -/
theorem exec_of_row {s : State} {w : Word32} {i : Instr} (held : Held s w) (row : (i, commandCode w) ∈ panelRows) :
    exec i s = .next (performCommand w (emptyHolding s)) := by
  simp only [panelRows, List.cons_append, List.nil_append, List.mem_cons, Prod.mk.injEq, List.not_mem_nil,
    or_false] at row
  rcases row with ⟨rfl, code⟩ | ⟨rfl, code⟩ | ⟨rfl, code⟩ | ⟨rfl, code⟩ | ⟨rfl, code⟩ | ⟨rfl, code⟩ | ⟨rfl, code⟩ |
    ⟨rfl, code⟩ | ⟨rfl, code⟩ | ⟨rfl, code⟩ | ⟨rfl, code⟩ | ⟨rfl, code⟩ | ⟨rfl, code⟩ | ⟨rfl, code⟩ | ⟨rfl, code⟩ |
    ⟨rfl, code⟩ | ⟨rfl, code⟩ <;>
  exact congrArg _ ((takeHeld_of_held held code _).trans (by unfold performCommand; rw [code]; rfl))

theorem performCommand_of_unnamed {w : Word32} (unnamed : 0x11 < commandCode w) (s : State) :
    performCommand w s = commandIllegal w s := by
  unfold performCommand
  split <;> first | omega | rfl

theorem exec_of_unnamed {s : State} {w : Word32} (held : Held s w) (unnamed : 0x11 < commandCode w) :
    exec .illegalCommandCode s = .next (performCommand w (emptyHolding s)) := by
  change execIllegalCommandCode s = _
  unfold execIllegalCommandCode
  rw [takeable_of_held held (decide_eq_true unnamed), performCommand_of_unnamed unnamed]

/-- A RESTART that is held and performed, by the command's row (R160). -/
theorem restartHeld_eq_true_iff {s : State} {w : Word32} {i : Instr} (held : Held s w)
    (row : (i, commandCode w) ∈ panelRows ∨ i = .illegalCommandCode ∧ 0x11 < commandCode w) :
    s.restartHeld = true ↔ i = .restart ∧ s.ae.join ≠ .profile := by
  have named : i = .restart ↔ commandCode w = 0x0E := by
    rcases row with row | ⟨rfl, unnamed⟩
    · constructor
      · rintro rfl
        simpa [panelRows] using row
      · intro code
        rw [code] at row
        simpa [panelRows] using row
    · constructor
      · intro same
        exact absurd same (by decide)
      · omega
  unfold State.restartHeld
  rw [Bool.and_eq_true, decide_eq_true_iff, named]
  refine and_congr_left fun _ => ?_
  by_cases code : commandCode w = 0x0E
  · rw [takeable_of_held held (decide_eq_true code)]
    simp [code]
  · have other : s.takeable (fun c => decide (c = codeRestart)) = none :=
      takeable_eq_none fun v holding isRestart => by
        rw [held.1] at holding
        rw [← Option.some.inj holding] at isRestart
        exact absurd (of_decide_eq_true isRestart) code
    rw [other]
    simp [code]

/-! No command fills the register. -/

section
variable {s : State} (empty : s.pp.holding = none)
include empty

theorem holding_of_flagsOnly {t : State} (h : FlagsOnly s t) : t.pp.holding = none := by
  rw [h]
  exact empty

theorem holding_offered (q : QueuedFrame) : (offerFrame q s).2.pp.holding = none :=
  holding_of_flagsOnly empty (flagsOnly_of_queueWork (queueWork_offerFrame q s))

theorem holding_commandStatus (w : Word32) : (commandStatus w s).pp.holding = none := by
  have channel (reading : Option Word16) : (statusChannel reading s).pp.holding = none := by
    cases reading <;> exact empty
  unfold commandStatus
  split
  case h_2 | h_3 | h_4 | h_5 => exact channel _
  all_goals exact empty

theorem holding_commandDemand (w : Word32) : (commandDemand w s).pp.holding = none := by
  have passed (tier : Nat) : (passDemand tier s).pp.holding = none := by
    have offered (q : QueuedFrame) := holding_offered (s := s.setAe { s.ae with lastTier := tier }) empty q
    unfold passDemand
    dsimp only
    split <;> exact offered _
  unfold commandDemand
  split_ifs
  case neg => exact passed _
  all_goals exact empty

theorem holding_commandPush (w : Word32) : (commandPush w s).pp.holding = none := by
  unfold commandPush
  split
  · exact empty
  · next kind code =>
    have placed := holding_of_flagsOnly empty (flagsOnly_of_stackWork
      (stackWork_placeOverride kind (pushValue kind (argumentWord23 w)) s (.inl (Steps.panelKind_of_pushKindOfCode code))))
    split
    · exact empty
    · unfold placePanel
      dsimp only
      split <;> exact placed

theorem holding_commandHandover (w : Word32) : (commandHandover w s).pp.holding = none := by
  have passed (action : DutyAction) : (passHandover action s).pp.holding = none := by
    unfold passHandover
    dsimp only
    split <;> exact holding_offered empty _
  unfold commandHandover
  split_ifs
  · exact empty
  · exact empty
  · split
    · exact passed _
    · exact passed _
    · exact empty

theorem holding_commandTripClear (w : Word32) : (commandTripClear w s).pp.holding = none := by
  have passed (target : Address) : (passTripClear target s).pp.holding = none := by
    unfold passTripClear
    dsimp only
    split <;> exact holding_offered empty _
  unfold commandTripClear
  split
  · exact empty
  · split
    · exact empty
    · exact holding_of_flagsOnly (passed _) (flagsOnly_settle _)

theorem holding_commandRelease (w : Word32) : (commandRelease w s).pp.holding = none := by
  unfold commandRelease
  split
  · have withdrawn := holding_of_flagsOnly empty (flagsOnly_of_stackWork (stackWork_deviceWithdraw .startHold s))
    exact withdrawn
  · exact empty

theorem holding_commandProfileWord (w : Word32) : (commandProfileWord w s).pp.holding = none := by
  have stored : (storeWord (argument1 w) (argumentWord23 w) s).pp.holding = none := by
    unfold storeWord
    dsimp only
    split <;> exact empty
  unfold commandProfileWord
  split_ifs
  · exact empty
  · exact stored
  · exact empty

theorem holding_performCommand (w : Word32) : (performCommand w s).pp.holding = none := by
  unfold performCommand
  split
  · unfold commandNop
    split <;> exact empty
  · exact holding_commandStatus empty w
  · exact empty
  · unfold commandWindow
    split <;> exact empty
  · exact empty
  · exact empty
  · exact empty
  · exact empty
  · exact holding_commandDemand empty w
  · exact holding_commandPush empty w
  · unfold commandPop
    split <;> exact empty
  · exact holding_commandHandover empty w
  · exact holding_commandTripClear empty w
  · exact holding_commandRelease empty w
  · unfold commandRestart
    split
    · exact empty
    · rfl
  · exact holding_commandProfileWord empty w
  · unfold commandProfileDone
    split <;> exact empty
  · exact empty

end

/-! A word that arrives, and a CANCEL (R156, R157). -/

theorem arrive_of_empty {s : State} (empty : s.pp.holding = none) (w : Word32) :
    arrive w s = { s with pp := { s.pp with holding := some w } } := by
  unfold arrive
  rw [empty]
  rfl

theorem arrive_of_holding {s : State} (holding : s.pp.holding ≠ none) (w : Word32) : arrive w s = overrun s := by
  obtain ⟨h, held⟩ := Option.ne_none_iff_exists'.1 holding
  unfold arrive
  rw [held]

/-- A CANCEL of a held command. -/
theorem performCancel_of_holding {s : State} {h : Word32} (noOutcome : s.pp.outcome = none)
    (holding : s.pp.holding = some h) : performCancel s = stageOutcome (cancelledOutcome h) (emptyHolding s) := by
  unfold performCancel
  rw [noOutcome, holding]

theorem performCancel_of_empty {s : State} (noOutcome : s.pp.outcome = none) (empty : s.pp.holding = none) :
    performCancel s = stageOutcome tooLateOutcome s := by
  unfold performCancel
  rw [noOutcome, empty]

theorem performCancel_of_outcome {s : State} {o : Word32} (outcome : s.pp.outcome = some o) :
    performCancel s = overrun s := by
  unfold performCancel
  rw [outcome]

theorem stageOutcome_eq (o : Word32) {s : State} (noOutcome : s.pp.outcome = none) :
    stageOutcome o s =
      { s with
        pp :=
          { s.pp with
            reply := match s.pp.reply with
              | none => some o
              | some r => some r
            outcome := match s.pp.reply with
              | none => none
              | some _ => some o } } := by
  obtain ⟨address, role, lc, ae, ttu, ovs, vd, eiu, smp, ⟨image, written, windowOpen, windowIndex, part, flags, masks,
    levels, holding, reply, outcome, sequence, overrun, exchange⟩, now, free, pending⟩ := s
  obtain rfl : outcome = none := noOutcome
  cases reply <;> rfl

/-- The CANCEL bit stands in the status byte (R158). -/
theorem cancelBit_wordOf (d1 d2 : Byte) : cancelBit ||| wordOf 0 d1 d2 0 = wordOf 0x20 d1 d2 0 := by
  have bytes : cancelBit = (0x20#8 ++ 0#8 ++ 0#8 ++ 0#8 : Word32) := by decide
  unfold wordOf
  rw [bytes, BitVec.or_append, BitVec.or_append, BitVec.or_append, BitVec.zero_or, BitVec.zero_or]
  rfl

/-- A CANCEL of a held command, and one that comes too late (R157). -/
theorem exec_cancel (s : State) (noOutcome : s.pp.outcome = none) :
    (∀ h, s.pp.holding = some h →
      exec .cancel s = .next (stageOutcome (wordOf 0x20 0x01 (byteOf (commandCode h)) 0) (emptyHolding s))) ∧
    (s.pp.holding = none → exec .cancel s = .next (stageOutcome (wordOf 0x20 0x02 0x11 0) s)) := by
  refine ⟨fun h holding => ?_, fun empty => ?_⟩
  · rw [← cancelBit_wordOf]
    exact congrArg _ (performCancel_of_holding noOutcome holding)
  · rw [← cancelBit_wordOf]
    exact congrArg _ (performCancel_of_empty noOutcome empty)

/-- A good exchange at whose end the handler takes nothing. -/
theorem goodExchange_of_not_held {s : State} {isReply first : Bool} (h : ∀ w, ¬ Held s w) (w : Word32) :
    takeCancel false isReply first s = performCancel s ∧ takeWord w first s = arrive w s := by
  have takes := handlerTakes_of_not_held h
  have noRestart : s.restartHeld = false := by
    unfold State.restartHeld
    rw [takeable_of_not_held h]
    rfl
  unfold takeCancel takeWord
  rw [takes, noRestart, ite_self]
  exact ⟨rfl, rfl⟩

/-- Settles O54: the start, then the ends by what the exchange was and by what the handler takes at it. -/
theorem exchangeAndCancel : Obligations.ExchangeAndCancel := by
  unfold Obligations.ExchangeAndCancel
  intro s marks
  have marked : markBits s.pp = marks := markBits_eq s.pp
  refine ⟨fun idle => ?_, fun word isReply edges w first shifting short => exec_exchangeEnd_void shifting short w first,
    ?_, fun edges w first voided => exec_exchangeEnd_voided voided edges w first, fun h noOutcome holding => ?_,
    fun noOutcome empty => ?_, fun o outcome => congrArg _ (performCancel_of_outcome outcome)⟩
  · rw [exec_exchangeStart idle]
    unfold fixedWord
    rw [marked]
    cases s.pp.reply <;> rfl
  · intro word isReply w first shifting u ends
    have ended : exchanged isReply s = u := exchanged_eq isReply s
    have good : ends = .next (if commandCode w = 0x11 then takeCancel s.pp.outcome.isSome isReply first u
        else takeWord w first u) := by
      rw [← ended]
      exact exec_exchangeEnd_good shifting w first
    have cancels : commandCode w = 0x11 → s.pp.outcome = none → ends = .next (takeCancel false isReply first u) := by
      intro cancel noOutcome
      rw [good, if_pos cancel, noOutcome]
      rfl
    have comes : commandCode w ≠ 0x11 → ends = .next (takeWord w first u) := fun other => by rw [good, if_neg other]
    refine ⟨fun cancel pending => ?_, fun none_held => ?_, fun h i t held row answer => ?_⟩
    · rw [good, if_pos cancel, Option.isSome_iff_ne_none.2 pending]
      rfl
    · obtain ⟨cancelled, arrives⟩ := goodExchange_of_not_held (isReply := isReply) (first := first) none_held w
      refine ⟨fun cancel noOutcome => ?_, fun other empty => ?_, fun other holding => ?_⟩
      · rw [cancels cancel noOutcome, cancelled]
        rfl
      · rw [comes other, arrives, arrive_of_empty empty]
      · rw [comes other, arrives, arrive_of_holding holding]
        rfl
    · have performed : exec i u = .next (performCommand h (emptyHolding u)) := by
        rcases row with row | ⟨rfl, unnamed⟩
        · exact exec_of_row held row
        · exact exec_of_unnamed held unnamed
      obtain rfl : performCommand h (emptyHolding u) = t := Host.Outcome.next.inj (performed.symm.trans answer)
      have takes : handlerTakes u = performCommand h (emptyHolding u) := handlerTakes_of_held held
      have empty : (handlerTakes u).pp.holding = none := by
        rw [takes]
        exact holding_performCommand (s := emptyHolding u) rfl h
      have restarts : u.restartHeld = true ↔ i = .restart ∧ s.ae.join ≠ .profile := restartHeld_eq_true_iff held row
      rw [← takes]
      refine ⟨fun cancel noOutcome => ⟨fun read notFirst => ?_, fun handler => ?_⟩, fun other handler => ?_,
        fun other resets notFirst => ?_⟩
      · rw [cancels cancel noOutcome, read, notFirst]
        rfl
      · have handlerComes : ¬ (isReply && !first) = true := by
          rcases handler with notRead | isFirst
          · simp [notRead]
          · simp [isFirst]
        rw [cancels cancel noOutcome]
        exact congrArg (fun v => Host.Outcome.next (performCancel v)) (if_neg handlerComes)
      · have arrives : ¬ (u.restartHeld && !first) = true := by
          rcases handler with noReset | isFirst
          · simp [Bool.eq_false_iff.2 (mt restarts.1 noReset)]
          · simp [isFirst]
        rw [comes other]
        exact congrArg _ ((if_neg arrives).trans (arrive_of_empty empty w))
      · rw [comes other]
        exact congrArg _ (if_pos (by simp [restarts.2 resets, notFirst]))
  · exact ((exec_cancel s noOutcome).1 h holding).trans (congrArg _ (stageOutcome_eq _ (s := emptyHolding s) noOutcome))
  · exact ((exec_cancel s noOutcome).2 empty).trans (congrArg _ (stageOutcome_eq _ noOutcome))

end Sys2Proof.Exchanges
end

section
/-! SUPPORT. The commands of the allocation link: the frame that starts, collides, is sent, or ends, and what a good frame
does at its delivery (R17, R19 to R28, R39, R44 to R47, R96). -/

namespace Sys2Proof.Link

open Sys2Proof.Machine Sys2Proof.Safety Sys2Proof.Laws Sys2Proof.Terms Sys2Proof.Offers Sys2Proof.Timers
  Sys2Proof.Enabling

/-! FRAME_START and START_BIT_DETECTED (R17, R19, R24). -/

theorem frameClass_eq_mark_iff (body : FrameBody) : frameClass body = .mark ↔ body = .mark := by
  cases body <;> simp [frameClass]

/-- The header round of a frame as it starts (R19). -/
theorem filledRound_eq (body : FrameBody) (round : Word16) :
    filledRound body round =
      if round = 0 then 0
      else if body = .mark then (if round = 0xFFFF then 1 else round + 1)
      else round := by
  unfold filledRound nextRound
  split
  · rfl
  · by_cases mark : body = .mark
    · rw [if_pos ((frameClass_eq_mark_iff body).2 mark), if_pos mark]
    · rw [if_neg (mt (frameClass_eq_mark_iff body).1 mark), if_neg mark]

/-- The first moment of R24 that has not passed. -/
theorem startsAt_of_moment {s : State} {since k : Nat} {view : Option Address} (quiet : s.lc.line = .quiet since view)
    (notPassed : s.now ≤ since + 250 * (3 + (s.address - view.getD s.lc.lastSender - 1).val + 16 * k))
    (previous : k ≠ 0 → since + 250 * (3 + (s.address - view.getD s.lc.lastSender - 1).val + 16 * k - 16) ≤ s.now) :
    s.startsAt since (3 + (s.address - view.getD s.lc.lastSender - 1).val + 16 * k) = true := by
  have rank := (s.address - view.getD s.lc.lastSender - 1).isLt
  unfold State.startsAt
  rw [quiet, rankView_quiet]
  simp only [startMoment, firstMoment, rankOf_eq_val_sub, Bool.and_eq_true, decide_eq_true_eq, accessSlot]
  refine ⟨⟨by omega, by omega⟩, notPassed, fun later => previous ?_⟩
  omega

theorem startable_of_quiet {s : State} {q : QueuedFrame} {rest : List QueuedFrame} {since : Nat} {view : Option Address}
    (offLine : s.lc.onLine = none) (queue : s.lc.queue = q :: rest) (quiet : s.lc.line = .quiet since view)
    (admitted : admits s.ae.join s.lc.muted q.body = true) : s.startable = some (q, since) := by
  unfold State.startable
  rw [offLine, queue, quiet]
  exact if_pos admitted

theorem exec_startBitDetected {s : State} (offLine : s.lc.onLine = none) :
    exec .startBitDetected s =
      .next (silenceAtFrameStart (s.setLc { s.lc with line := atStartBit s.lc.line s.now })) := by
  change execStartBitDetected s = _
  unfold execStartBitDetected
  rw [offLine]
  rfl

/-- Settles O8: the moment and the frame that starts, and the start bit on a quiet and on a busy line. -/
theorem frameStartSendsHead : Obligations.FrameStartSendsHead := by
  unfold Obligations.FrameStartSendsHead
  intro s offLine holding
  refine ⟨?_, fun since view quiet => ?_, fun first last own busy => ?_⟩
  · intro q rest since k view queue quiet admitted slots now round notPassed previous
    change execFrameStart slots s = _
    unfold execFrameStart
    rw [startable_of_quiet offLine queue quiet admitted]
    dsimp only
    rw [if_pos (startsAt_of_moment quiet notPassed previous)]
    unfold startFrame
    rw [silenceAtFrameStart_eq, filledRound_eq]
    have moment : max s.now (since + accessSlot * slots) = now := Nat.max_eq_right notPassed
    unfold advanceTo
    rw [moment]
    rfl
  · rw [exec_startBitDetected offLine, silenceAtFrameStart_eq, quiet]
    rfl
  · rw [exec_startBitDetected offLine, silenceAtFrameStart_eq, busy]
    rfl

/-! COLLISION (R27, R28). -/

theorem exec_collision {s : State} {l : LineFrame} {q : QueuedFrame} {rest : List QueuedFrame}
    (onLine : s.lc.onLine = some l) (queue : s.lc.queue = q :: rest) :
    exec .collision s =
      .next
        (if 8 ≤ q.collisions + 1 then settle (discardHead q rest (lineStopped s (withCollided q rest)))
        else lineStopped s (withCollided q rest)) := by
  change execCollision s = _
  unfold execCollision
  rw [onLine, queue]
  rfl

theorem withCollided_of_kept {q : QueuedFrame} {rest : List QueuedFrame}
    (h : ¬ (ofClass .status q = true ∧ ∃ x ∈ rest, ofClass .status x = true)) :
    withCollided q rest = { q with collisions := q.collisions + 1 } :: rest := by
  unfold withCollided
  exact if_neg (by simpa using h)

theorem withCollided_of_givesWay {q : QueuedFrame} {rest : List QueuedFrame}
    (h : ofClass .status q = true ∧ ∃ x ∈ rest, ofClass .status x = true) : withCollided q rest = rest := by
  unfold withCollided
  exact if_pos (by simpa using h)

/-- The eighth collision: the discard counted, NOT-TAKEN by the frame's kind, and the originator told. -/
theorem exec_collision_eighth {s : State} {l : LineFrame} {q : QueuedFrame} {rest : List QueuedFrame}
    (onLine : s.lc.onLine = some l) (queue : s.lc.queue = q :: rest) (eighth : q.collisions = 7) :
    exec .collision s =
      .next (settle (discardNotice q
        (raiseIf (raisesNotTaken q.body) .notTaken (discarded (lineStopped s rest))))) := by
  rw [exec_collision onLine queue, if_pos (by omega)]
  rfl

/-- An ASK or a BLOCK lost raises no NOT-TAKEN of its own. -/
theorem raisesNotTaken_of_transfer {body : FrameBody} (h : isAsk body = true ∨ isBlock body = true) :
    raisesNotTaken body = false := by
  revert h
  cases body <;> simp [isAsk, isBlock, raisesNotTaken]

/-- The eighth collision of the ASK that an ASKED TTU follows (R107). -/
theorem exec_collision_of_ask {s : State} {l : LineFrame} {q : QueuedFrame} {rest : List QueuedFrame}
    (onLine : s.lc.onLine = some l) (queue : s.lc.queue = q :: rest) (eighth : q.collisions = 7)
    (followed : q.tracked = true) (ask : isAsk q.body = true) (asked : ∃ server attempt, s.ttu.phase = .asked server attempt) :
    exec .collision s = .next (afterFailures (attemptFailed (discarded (lineStopped s rest)))) := by
  rw [exec_collision_eighth onLine queue eighth, raisesNotTaken_of_transfer (.inl ask),
    discardNotice_ask followed ask (by exact asked)]
  exact congrArg _ (settle_eq_afterFailures _)

/-- Settles O9, by the count of collisions and by the kind of frame. -/
theorem collisionRule : Obligations.CollisionRule := by
  unfold Obligations.CollisionRule
  intro s l q rest onLine queue few givesWay lost asked
  have below : q.collisions < 7 → exec .collision s = .next (lineStopped s (withCollided q rest)) := fun few => by
    rw [exec_collision onLine queue, if_neg (by omega)]
  refine ⟨fun small kept => ?_, fun small gives => ?_, fun eighth h => ?_, fun eighth followed ask isAsked => ?_,
    fun eighth followed block => ?_⟩
  · rw [below small, withCollided_of_kept kept]
  · rw [below small, withCollided_of_givesWay gives]
  · rw [exec_collision_eighth onLine queue eighth]
    have told : discardNotice q (raiseIf (raisesNotTaken q.body) .notTaken lost) =
        (raiseIf (raisesNotTaken q.body) .notTaken lost).setAe (lossNoted q s.ae) := by
      have phase : (raiseIf (raisesNotTaken q.body) .notTaken lost).ttu.phase = s.ttu.phase := by
        rw [raiseIf_ttu]
        rfl
      have ae : (raiseIf (raisesNotTaken q.body) .notTaken lost).ae = s.ae := by
        rw [raiseIf_ae]
        rfl
      rw [discardNotice_eq_lossNoted (by rw [phase]; exact h), ae]
    have attempts : ((raiseIf (raisesNotTaken q.body) .notTaken lost).setAe (lossNoted q s.ae)).ttu.attempts < 3 := by
      rw [setAe_ttu, raiseIf_ttu]
      exact few
    rw [told, settle_of_lt attempts]
    obtain ⟨body, originator, tracked, collisions⟩ := q
    cases body with
    | claim b => cases tracked <;> rfl
    | trip => cases originator <;> rfl
    | clear target => cases originator <;> rfl
    | _ => rfl
  · exact exec_collision_of_ask onLine queue eighth followed ask isAsked
  · rw [exec_collision_eighth onLine queue eighth, raisesNotTaken_of_transfer (.inr block),
      discardNotice_block followed block]
    exact congrArg _ (settle_of_lt few)

/-! The frame that ends, and the own frame sent (R17, R20, R21, R26). -/

theorem exec_frameEnd {s : State} (offLine : s.lc.onLine = none) (chars : List Byte) (framingError : Bool) :
    exec (.frameEnd chars framingError) s =
      .next (settle (receiveFrame (ownPart s.lc.line) chars framingError (frameEnded s chars.length))) := by
  rw [← lineQuiet_eq_frameEnded]
  change execFrameEnd chars framingError s = _
  unfold execFrameEnd
  rw [offLine]

theorem receiveFrame_good {chars : List Byte} {framingError : Bool} {f : GoodFrame}
    (judged : judgeFrame chars framingError = some f) (own : OwnPart) (s : State) :
    receiveFrame own chars framingError s = receiveGood own chars f s := by
  unfold receiveFrame
  rw [judged]

/-- A peer's good frame without an address clash is counted, sets L, and is delivered. -/
theorem exec_frameEnd_peer {s : State} {chars : List Byte} {framingError : Bool} {f : GoodFrame}
    (ends : peerFrameEnds s chars framingError f) (clear : noClash s f.sender) :
    exec (.frameEnd chars framingError) s =
      .next (settle (deliverFrame false false f (heardGood (frameEnded s chars.length) f.sender))) := by
  obtain ⟨offLine, notOwn, judged⟩ := ends
  have noClash : (heardGood (frameEnded s chars.length) f.sender).clashes (ownPart s.lc.line) f.sender = false := by
    have same : (heardGood (frameEnded s chars.length) f.sender).clashes (ownPart s.lc.line) f.sender =
        s.clashes (ownPart s.lc.line) f.sender := rfl
    rw [same]
    unfold State.clashes
    rcases clear with other | part | profile | muted
    · simp [other]
    · simp [part]
    · simp [profile]
    · simp [muted]
  rw [exec_frameEnd offLine, receiveFrame_good judged]
  unfold receiveGood
  rw [acceptFrame_eq_heardGood]
  dsimp only
  rw [if_neg notOwn, noClash]
  rfl

/-- The end of the node's own frame: judged and counted, not delivered again (log 4). -/
theorem exec_frameEnd_own {s : State} {chars : List Byte} {framingError : Bool} {f : GoodFrame}
    (offLine : s.lc.onLine = none) (own : ownPart s.lc.line = .sent chars)
    (judged : judgeFrame chars framingError = some f) :
    exec (.frameEnd chars framingError) s = .next (settle (heardGood (frameEnded s chars.length) f.sender)) := by
  rw [exec_frameEnd offLine, receiveFrame_good judged]
  unfold receiveGood
  rw [acceptFrame_eq_heardGood]
  dsimp only
  rw [if_pos own]

/-- A failed frame: a CRC error counted, and a GAP in the journal (R20, R45). -/
theorem exec_frameEnd_failed {s : State} {chars : List Byte} {framingError : Bool} (offLine : s.lc.onLine = none)
    (failed : judgeFrame chars framingError = none) :
    exec (.frameEnd chars framingError) s = .next (settle (journalGap (countFailed (frameEnded s chars.length)))) := by
  rw [exec_frameEnd offLine]
  unfold receiveFrame
  rw [failed]
  rfl

/-- An address clash is acted on before the frame is delivered (log 12). -/
theorem exec_frameEnd_clash {s : State} {chars : List Byte} {framingError : Bool} {f : GoodFrame}
    (ends : peerFrameEnds s chars framingError f) (sender : f.sender = s.address)
    (noPart : ownPart s.lc.line = .nothing) (join : s.ae.join ≠ .profile) (unmuted : s.lc.muted = false) :
    exec (.frameEnd chars framingError) s =
      .next (settle (deliverFrame false false f
        (performClash (heardGood (frameEnded s chars.length) f.sender)))) := by
  obtain ⟨offLine, notOwn, judged⟩ := ends
  have clash : (heardGood (frameEnded s chars.length) f.sender).clashes (ownPart s.lc.line) f.sender = true := by
    have same : (heardGood (frameEnded s chars.length) f.sender).clashes (ownPart s.lc.line) f.sender =
        s.clashes (ownPart s.lc.line) f.sender := rfl
    rw [same]
    unfold State.clashes
    simp [noPart, sender, join, unmuted]
  rw [exec_frameEnd offLine, receiveFrame_good judged]
  unfold receiveGood
  rw [acceptFrame_eq_heardGood]
  dsimp only
  rw [if_neg notOwn, clash]
  rfl

/-- The node's own frame as it counts as sent: out of the queue, delivered, its originator told (R26). -/
theorem exec_frameSent {s : State} {l : LineFrame} {q : QueuedFrame} {rest : List QueuedFrame} {first : Nat}
    (sending : sendingSince s l q rest first) :
    exec .frameSent s =
      .next (settle (sentNotice q
        (deliverFrame true q.tracked { sender := s.address, round := l.round, body := q.body }
          (ownFrameOff s l rest first)))) := by
  rw [← frameOff_eq_ownFrameOff sending]
  obtain ⟨onLine, queue, -⟩ := sending
  change execFrameSent s = _
  unfold execFrameSent
  rw [onLine, queue]
  rfl

/-! A MARK (R39, R40). -/

/-- A MARK delivered, a peer's or the node's own, is taken in. -/
theorem exec_takesMark {s h : State} {i : Instr} {round : Word16} (takes : takesMark s h i round) :
    exec i s = .next (settle (takeMark round h)) := by
  rcases takes with ⟨chars, framingError, f, rfl, ends, clear, mark, same, rfl⟩ |
    ⟨l, q, rest, first, rfl, sending, mark, same, rfl⟩
  · rw [exec_frameEnd_peer ends clear]
    unfold deliverFrame
    rw [mark, same]
  · rw [exec_frameSent sending]
    have told : ∀ t : State, sentNotice q t = t := fun t => by
      unfold sentNotice
      rw [mark]
      exact ite_self _
    rw [told]
    unfold deliverFrame
    rw [mark, same]

/-- What the delivery of a MARK finds: the AE, the TTU and the LC's mute are those before it. -/
theorem takesMark_ae {s h : State} {i : Instr} {round : Word16} (takes : takesMark s h i round) :
    h.ae = { s.ae with silenceTimer := h.ae.silenceTimer } := by
  rcases takes with ⟨chars, framingError, f, rfl, -, -, -, -, rfl⟩ | ⟨l, q, rest, first, rfl, -, -, -, rfl⟩ <;> rfl

theorem takesMark_ttu {s h : State} {i : Instr} {round : Word16} (takes : takesMark s h i round) : h.ttu = s.ttu := by
  rcases takes with ⟨chars, framingError, f, rfl, -, -, -, -, rfl⟩ | ⟨l, q, rest, first, rfl, -, -, -, rfl⟩ <;> rfl

theorem takesMark_join {s h : State} {i : Instr} {round : Word16} (takes : takesMark s h i round) :
    h.ae.join = s.ae.join := by rw [takesMark_ae takes]

theorem takesMark_round {s h : State} {i : Instr} {round : Word16} (takes : takesMark s h i round) :
    h.ae.round = s.ae.round := by rw [takesMark_ae takes]

theorem nextRound_ne_zero (r : Word16) : nextRound r ≠ 0 := by
  unfold nextRound
  split
  · decide
  · rename_i notLast
    bv_omega

theorem nextRound_ne_self (r : Word16) : nextRound r ≠ r := by
  unfold nextRound
  split
  · rename_i last
    rw [last]
    decide
  · bv_omega

/-- A MARK taken in outside PROFILE and MUTED. -/
theorem takeMark_of_listens {s : State} (join : s.ae.join = .listening ∨ s.ae.join = .joined ∨ s.ae.join = .diverged)
    (carried : Word16) :
    takeMark carried s =
      if s.ae.round = 0 then
        (if carried = 0 then countDuplicate s else s.setAe { s.ae with round := carried, journal := [] })
      else markKnown carried s := by
  unfold takeMark
  rcases join with h | h | h <;> rw [h]

/-- Settles O14, by the join state and by the round carried. -/
theorem markWithoutClose : Obligations.MarkWithoutClose := by
  unfold Obligations.MarkWithoutClose
  intro s h i carried takes few duplicate
  have ttu := takesMark_ttu takes
  have calm : ∀ {u : State}, takeMark carried h = u → u.ttu = h.ttu → exec i s = .next u := by
    intro u taken same
    rw [exec_takesMark takes, taken, settle_of_lt (by rw [same, ttu]; exact few)]
  rw [← takesMark_join takes, ← takesMark_round takes]
  refine ⟨fun closed => calm ?_ rfl, fun listens => ⟨fun unknown known => calm ?_ rfl, fun same => calm ?_ rfl⟩⟩
  · unfold takeMark
    rcases closed with join | join <;> rw [join]
  · rw [takeMark_of_listens listens, if_pos unknown, if_neg known]
    rfl
  · rw [takeMark_of_listens listens]
    by_cases unknown : h.ae.round = 0
    · have zero : carried = 0 := by
        rcases same with same | zero
        · rw [same, unknown]
        · exact zero
      rw [if_pos unknown, if_pos zero]
      rfl
    · have notNext : ¬ carried = nextRound h.ae.round := by
        rcases same with same | zero
        · rw [same]
          exact (nextRound_ne_self _).symm
        · rw [zero]
          exact (nextRound_ne_zero _).symm
      rw [if_neg unknown]
      unfold markKnown
      rw [if_neg notNext, if_pos same]
      rfl

/-! The journal (R44 to R47, R96). -/

theorem journalOpen_eq_true_iff (s : State) :
    s.journalOpen = true ↔
      (s.ae.join = .listening ∨ s.ae.join = .joined ∨ s.ae.join = .diverged) ∧ s.ae.round ≠ 0 := by
  unfold State.journalOpen journals
  cases s.ae.join <;> simp

theorem staleIn_eq_false_iff (round : Word16) (f : GoodFrame) :
    staleIn round f = false ↔ ∀ b, f.body = .status b → f.round = round := by
  unfold staleIn
  cases f.body <;> simp

/-- The conditions on an answer to an open offer, at the node itself (R96; log 19). -/
theorem mayTake_eq_true_iff (s : State) :
    s.mayTake = true ↔
      (s.ae.join = .joined ∨ s.ae.join = .diverged) ∧ s.role = .flare ∧ (s.profileWord 0).getLsbD 2 = true ∧
        eligible s.ownEntry = true ∧ (∃ a, s.ae.committed.duty = some a ∧ a ≠ s.address) ∧
        (∀ q ∈ s.lc.queue, q.body ≠ .duty .take) ∧ .duty s.address .take ∉ s.ae.journal := by
  have another : namesAnother s.ae.committed.duty s.address = true ↔
      ∃ a, s.ae.committed.duty = some a ∧ a ≠ s.address := by
    cases s.ae.committed.duty <;> simp [namesAnother]
  have journaled : s.ae.journal.any (isOwnTake s.address) = false ↔ .duty s.address .take ∉ s.ae.journal := by
    have ownTake : ∀ r : Record, isOwnTake s.address r = true ↔ r = .duty s.address .take := by
      intro r
      cases r with
      | duty a action => cases action <;> simp [isOwnTake]
      | _ => simp [isOwnTake]
    rw [Bool.eq_false_iff, Ne, List.any_eq_true, not_exists]
    constructor
    · intro none_is mem
      exact none_is _ ⟨mem, (ownTake _).2 rfl⟩
    · rintro absent r ⟨mem, isTake⟩
      rw [(ownTake r).1 isTake] at mem
      exact absent mem
  have queued : s.lc.queue.any (fun q => decide (q.body = .duty .take)) = false ↔
      ∀ q ∈ s.lc.queue, q.body ≠ .duty .take := by simp
  unfold State.mayTake State.takeOutstanding State.dutyAllowed
  simp only [Bool.and_eq_true, Bool.not_eq_true', Bool.or_eq_false_iff, inRounds_eq_true_iff, decide_eq_true_eq,
    another, queued, journaled, and_assoc]

/-- The record of a frame is the OFFER's alone where the frame is one. -/
theorem recordOf_eq_offer {f : GoodFrame} {a : Address} (h : recordOf f = some (.duty a .offer)) :
    f.body = .duty .offer ∧ a = f.sender := by
  unfold recordOf at h
  split at h <;> simp at h
  rename_i action body
  obtain ⟨rfl, rfl⟩ := h
  exact ⟨body, rfl⟩

/-- The frame's record taken, the OFFER checked for an answer. -/
theorem journalFrame_of_open {own tracked : Bool} {f : GoodFrame} {r : Record} {s : State} (isOpen : s.journalOpen = true)
    (fresh : staleIn s.ae.round f = false) (room : s.ae.journal.length < 40) :
    journalFrame own tracked f r s =
      if (own && tracked && isClaim f.body) = true then demandTaken (offerHeard r (withRecord s r))
      else offerHeard r (withRecord s r) := by
  unfold journalFrame
  rw [if_neg (by simp [isOpen, fresh])]
  exact if_pos room

theorem journalFrame_of_closed {own tracked : Bool} {f : GoodFrame} {r : Record} {s : State}
    (h : ¬ (s.journalOpen = true ∧ staleIn s.ae.round f = false)) : journalFrame own tracked f r s = s := by
  unfold journalFrame
  refine if_pos ?_
  cases isOpen : s.journalOpen with
  | false => exact .inl rfl
  | true =>
    cases stale : staleIn s.ae.round f with
    | false => exact absurd ⟨isOpen, stale⟩ h
    | true => exact .inr rfl

theorem journalFrame_of_full {own tracked : Bool} {f : GoodFrame} {r : Record} {s : State} (isOpen : s.journalOpen = true)
    (fresh : staleIn s.ae.round f = false) (full : 40 ≤ s.ae.journal.length) :
    journalFrame own tracked f r s = if own = true then ownNotTaken f.body tracked s else s := by
  have noRoom : ¬ s.ae.journal.length < journalCapacity := Nat.not_lt.2 full
  unfold journalFrame
  rw [if_neg (by simp [isOpen, fresh]), if_neg noRoom]

/-- A journaled kind is delivered to the journal. -/
theorem deliverFrame_of_record {f : GoodFrame} {r : Record} (record : recordOf f = some r) (own tracked : Bool)
    (s : State) : deliverFrame own tracked f s = journalFrame own tracked f r s := by
  have kinds := record
  unfold recordOf at kinds
  unfold deliverFrame
  rw [record]
  cases body : f.body <;> rw [body] at kinds <;> first | rfl | exact absurd kinds (by simp)

/-- An OFFER that the node may not answer changes nothing but the journal. -/
theorem offerHeard_of_none {r : Record} {s : State}
    (h : ∀ a, r = .duty a .offer → s.ae.committed.duty = some a → s.mayTake = false) : offerHeard r s = s := by
  unfold offerHeard
  split
  · rename_i a
    split
    · rename_i holder
      unfold automaticTake
      rw [h a rfl holder]
      rfl
    · rfl
  all_goals rfl

/-- The answer the node itself may give is the one the frame calls for. -/
theorem mayAnswer_of_mayTake {s : State} {f : GoodFrame} {r : Record} {length : Nat}
    (offer : f.body = .duty .offer) (holder : s.ae.committed.duty = some f.sender)
    (may : (withRecord (heardGood (frameEnded s length) f.sender) r).mayTake = true) : mayAnswer s f := by
  obtain ⟨join, flare, allowed, canBurn, ⟨a, duty, other⟩, unqueued, unjournaled⟩ := (mayTake_eq_true_iff _).1 may
  have sender : a = f.sender := Option.some.inj (duty.symm.trans holder)
  refine ⟨offer, sender ▸ other, holder, join, flare, allowed, canBurn, unqueued, fun mem => unjournaled ?_⟩
  exact List.mem_append_left _ mem

theorem mayTake_of_mayAnswer {s : State} {f : GoodFrame} {length : Nat} (may : mayAnswer s f) :
    (withRecord (heardGood (frameEnded s length) f.sender) (.duty f.sender .offer)).mayTake = true := by
  obtain ⟨-, other, holder, join, flare, allowed, canBurn, unqueued, unjournaled⟩ := may
  refine (mayTake_eq_true_iff _).2 ⟨join, flare, allowed, canBurn, ⟨f.sender, holder, other⟩, unqueued, fun mem => ?_⟩
  rcases List.mem_append.1 mem with old | new
  · exact unjournaled old
  · simp at new

/-- Settles O12: the record's conditions, and the gap's. -/
theorem peerFrameEnds : Obligations.PeerFrameEnds := by
  unfold Obligations.PeerFrameEnds
  intro s chars framingError few opened e
  have noSettle : ∀ {u : State}, u.ttu = s.ttu → settle u = u := fun same => settle_of_lt (by rw [same]; exact few)
  refine ⟨fun f r ends clear record notAnswered => ?_, fun offLine failed => ?_⟩
  · let h := heardGood e f.sender
    have isOpen : h.journalOpen = true ↔
        (s.ae.join = .listening ∨ s.ae.join = .joined ∨ s.ae.join = .diverged) ∧ s.ae.round ≠ 0 :=
      journalOpen_eq_true_iff h
    have fresh : staleIn h.ae.round f = false ↔ ∀ b, f.body = .status b → f.round = s.ae.round :=
      staleIn_eq_false_iff ..
    have delivered : exec (.frameEnd chars framingError) s = .next (settle (journalFrame false false f r h)) := by
      rw [exec_frameEnd_peer ends clear, deliverFrame_of_record record]
    rw [delivered]
    refine ⟨fun ⟨⟨join, round, room⟩, current⟩ => ?_, fun notTaken => ?_⟩
    · rw [journalFrame_of_open (isOpen.2 ⟨join, round⟩) (fresh.2 current) room]
      have unanswered : offerHeard r (withRecord h r) = withRecord h r := by
        refine offerHeard_of_none fun a isOffer holder => Bool.eq_false_iff.2 fun may => notAnswered ?_
        obtain ⟨offer, rfl⟩ := recordOf_eq_offer (isOffer ▸ record)
        exact mayAnswer_of_mayTake offer holder may
      rw [unanswered]
      exact congrArg _ (noSettle rfl)
    · have stays : journalFrame false false f r h = h := by
        by_cases takes : h.journalOpen = true ∧ staleIn h.ae.round f = false
        · obtain ⟨join, round⟩ := isOpen.1 takes.1
          have full : 40 ≤ h.ae.journal.length := by
            by_contra room
            exact notTaken ⟨⟨join, round, Nat.not_le.1 room⟩, fresh.1 takes.2⟩
          rw [journalFrame_of_full takes.1 takes.2 full]
          rfl
        · exact journalFrame_of_closed takes
      rw [stays]
      exact congrArg _ (noSettle rfl)
  · intro c
    have counted : countFailed e = c := rfl
    have isOpen : c.journalOpen = true ↔
        (s.ae.join = .listening ∨ s.ae.join = .joined ∨ s.ae.join = .diverged) ∧ s.ae.round ≠ 0 :=
      journalOpen_eq_true_iff c
    rw [exec_frameEnd_failed offLine failed, counted]
    unfold journalGap
    refine ⟨fun ⟨join, round, room⟩ => ?_, fun closed => ?_⟩
    · rw [if_pos ⟨isOpen.2 ⟨join, round⟩, room⟩]
      exact congrArg _ (noSettle rfl)
    · rw [if_neg fun ⟨taken, room⟩ => closed ⟨(isOpen.1 taken).1, (isOpen.1 taken).2, room⟩]
      exact congrArg _ (noSettle rfl)

/-- An own frame of a journaled kind has nothing more told to its originator. -/
theorem sentNotice_of_record {f : GoodFrame} {r : Record} {q : QueuedFrame} (body : f.body = q.body)
    (record : recordOf f = some r) (s : State) : sentNotice q s = s := by
  unfold recordOf at record
  rw [body] at record
  unfold sentNotice
  cases tracked : q.tracked with
  | false => rfl
  | true => cases kind : q.body <;> rw [kind] at record <;> first | rfl | exact absurd record (by simp)

/-- Settles O11: the own frame's record taken or past the fortieth, and its end on the line. -/
theorem ownFrameSentAndEnds : Obligations.OwnFrameSentAndEnds := by
  unfold Obligations.OwnFrameSentAndEnds
  intro s few
  have noSettle : ∀ {u : State}, u.ttu = s.ttu → settle u = u := fun same => settle_of_lt (by rw [same]; exact few)
  refine ⟨?_, fun chars framingError f offLine own judged => ?_⟩
  · intro l q rest first r sending record join round current off
    let f : GoodFrame := { sender := s.address, round := l.round, body := q.body }
    have isOpen : off.journalOpen = true := (journalOpen_eq_true_iff off).2 ⟨join, round⟩
    have fresh : staleIn off.ae.round f = false := (staleIn_eq_false_iff ..).2 current
    have delivered : exec .frameSent s = .next (settle (journalFrame true q.tracked f r off)) := by
      rw [exec_frameSent sending, sentNotice_of_record rfl record, deliverFrame_of_record record]
    rw [delivered]
    refine ⟨fun room => ?_, fun full => ?_⟩
    · have unanswered : offerHeard r (withRecord off r) = withRecord off r := by
        refine offerHeard_of_none fun a isOffer holder => Bool.eq_false_iff.2 fun may => ?_
        obtain ⟨-, rfl⟩ := recordOf_eq_offer (isOffer ▸ record)
        obtain ⟨-, -, -, -, ⟨a, duty, other⟩, -⟩ := (mayTake_eq_true_iff _).1 may
        exact other (Option.some.inj (duty.symm.trans holder))
      rw [journalFrame_of_open isOpen fresh room, unanswered]
      by_cases claims : q.tracked = true ∧ isClaim q.body = true
      · rw [if_pos (by simp [f, claims])]
        unfold demandTaken
        by_cases queued : s.ae.demand.stage = .queued
        · rw [if_pos (show (withRecord off r).ae.demand.stage = .queued from queued),
            if_pos ⟨claims.1, claims.2, queued⟩]
          exact congrArg _ (noSettle rfl)
        · rw [if_neg (show ¬ (withRecord off r).ae.demand.stage = .queued from queued),
            if_neg fun all => queued all.2.2]
          exact congrArg _ (noSettle rfl)
      · rw [if_neg (by simpa [f] using claims), if_neg fun all => claims ⟨all.1, all.2.1⟩]
        exact congrArg _ (noSettle rfl)
    · have past : journalFrame true q.tracked f r off = ownNotTaken q.body q.tracked off :=
        journalFrame_of_full isOpen fresh (Nat.le_of_eq full.symm)
      rw [past]
      unfold recordOf at record
      obtain ⟨body, originator, tracked, collisions⟩ := q
      cases body with
      | claim b =>
        cases tracked with
        | false => exact congrArg _ (noSettle rfl)
        | true =>
          unfold ownNotTaken
          dsimp only
          rw [if_pos rfl, demandNotTaken_eq]
          exact congrArg _ (noSettle rfl)
      | mark => exact absurd record (by simp)
      | ask server attempt => exact absurd record (by simp)
      | blockHeader a n st c r d => exact absurd record (by simp)
      | blockData a n i bytes => exact absurd record (by simp)
      | _ => exact congrArg _ (noSettle rfl)
  · rw [exec_frameEnd_own offLine own judged]
    exact congrArg _ (noSettle rfl)

/-- The record of an OFFER. -/
theorem recordOf_offer {f : GoodFrame} (offer : f.body = .duty .offer) :
    recordOf f = some (.duty f.sender .offer) := by
  unfold recordOf
  rw [offer]

theorem waitingFrames_of_offLine {lc : LinkController} (offLine : lc.onLine = none) : waitingFrames lc = lc.queue := by
  unfold waitingFrames
  rw [offLine]
  rfl

/-- Settles O35: the TAKE of a flare that may, by the room in its queue. -/
theorem offerAnswered : Obligations.OfferAnswered := by
  unfold Obligations.OfferAnswered
  intro s chars framingError f ends may few h taken
  have noSettle : ∀ {u : State}, u.ttu = s.ttu → settle u = u := fun same => settle_of_lt (by rw [same]; exact few)
  have answer : taken.mayTake = true := mayTake_of_mayAnswer may
  obtain ⟨offer, other, holder, joined, -⟩ := may
  have waiting : waitingFrames taken.lc = s.lc.queue := waitingFrames_of_offLine ends.1
  have delivered : exec (.frameEnd chars framingError) s =
      .next (settle (journalFrame false false f (.duty f.sender .offer) h)) := by
    rw [exec_frameEnd_peer ends (.inl other), deliverFrame_of_record (recordOf_offer offer)]
  have fresh : staleIn h.ae.round f = false := (staleIn_eq_false_iff ..).2 fun b status => by simp [offer] at status
  rw [delivered]
  refine ⟨fun round room => ?_, fun closed => ?_⟩
  · have isOpen : h.journalOpen = true := (journalOpen_eq_true_iff h).2 ⟨.inr joined, round⟩
    have answers : journalFrame false false f (.duty f.sender .offer) h =
        (offerFrame (newFrame (.duty .take) .ae) taken).2 := by
      rw [journalFrame_of_open isOpen fresh room]
      unfold offerHeard
      dsimp only
      rw [if_pos (show (withRecord h (.duty f.sender .offer)).ae.committed.duty = some f.sender from holder)]
      exact if_pos answer
    rw [answers]
    refine ⟨fun unmuted space => ?_, fun unmuted full => ?_, fun muted => ?_⟩
    · rw [offerFrame_ordinary_of_room (s := taken) (admits_of_inRounds joined unmuted _) rfl space, waiting]
      exact congrArg _ (noSettle rfl)
    · rw [offerFrame_ordinary_of_full (s := taken) (admits_of_inRounds joined unmuted _) rfl full]
      exact congrArg _ (noSettle rfl)
    · rw [offerFrame_of_refused (s := taken) (by simp [admits, show taken.lc.muted = true from muted])]
      exact congrArg _ (noSettle rfl)
  · have stays : journalFrame false false f (.duty f.sender .offer) h = h := by
      by_cases isOpen : h.journalOpen = true
      · have round := ((journalOpen_eq_true_iff h).1 isOpen).2
        rcases closed with unknown | full
        · exact absurd unknown round
        · rw [journalFrame_of_full isOpen fresh full]
          rfl
      · exact journalFrame_of_closed fun both => isOpen both.1
    rw [stays]
    exact congrArg _ (noSettle rfl)

end Sys2Proof.Link
end

section
/-! SUPPORT. The event flags as bits, the address clash, and the table transfer at the link (R22, R106 to R113, R115). -/

namespace Sys2Proof.Transfers

open Sys2Proof.Machine Sys2Proof.Safety Sys2Proof.Laws Sys2Proof.Terms Sys2Proof.Offers Sys2Proof.Timers
  Sys2Proof.Overrides Sys2Proof.Link

/-! Event flags (R161). -/

theorem flagNumber_lt (e : EventFlag) : flagNumber e < 16 := by cases e <;> decide

/-- A raised flag sets its own bit and no other. -/
theorem getLsbD_withFlag (flags : Word16) (e : EventFlag) (n : Nat) :
    (withFlag flags e).getLsbD n = (flags.getLsbD n || decide (n = flagNumber e)) := by
  have small := flagNumber_lt e
  unfold withFlag bitWord
  rw [BitVec.getLsbD_or, BitVec.getLsbD_shiftLeft, BitVec.getLsbD_one]
  congr 1
  by_cases same : n = flagNumber e
  · simp [same, small]
  · have other : ¬ n - flagNumber e = 0 ∨ n < flagNumber e := by omega
    rcases other with above | below
    · simp [same, above]
    · simp [same, below]

theorem getLsbD_withFlag_other {flags : Word16} {e : EventFlag} {n : Nat} (other : n ≠ flagNumber e) :
    (withFlag flags e).getLsbD n = flags.getLsbD n := by
  rw [getLsbD_withFlag, decide_eq_false other, Bool.or_false]

theorem getLsbD_withFlag_same (flags : Word16) (e : EventFlag) : (withFlag flags e).getLsbD (flagNumber e) = true := by
  rw [getLsbD_withFlag, decide_eq_true rfl, Bool.or_true]

/-- A device's push raises STACK-DROP alone. -/
theorem flags_devicePush (kind : OverrideKind) (s : State) {n : Nat} (other : n ≠ 11) :
    (devicePush kind s).pp.flags.getLsbD n = s.pp.flags.getLsbD n := by
  have raised : ∀ (c : Bool) (t : State),
      (raiseIf c .stackDrop t).pp.flags.getLsbD n = t.pp.flags.getLsbD n := by
    intro c t
    cases c
    · rfl
    · exact getLsbD_withFlag_other other
  unfold devicePush
  split
  · rfl
  · split
    · rfl
    · unfold placeOverride
      split
      · exact raised _ _
      · exact raised true s

/-! A device entry is in the stack once it has been pushed (R132, R134). -/

/-- A stack of its law that holds no entry of a device kind is not full of device entries. -/
theorem makeRoom_ne_none {stack : List OverrideEntry} (law : stackLaw stack) {kind : OverrideKind}
    (device : panelKind kind = false) (absent : ∀ e ∈ stack, e.kind ≠ kind) : makeRoom stack ≠ none := by
  intro none_made
  have full : ¬ stack.length < stackCapacity := fun room => by simp [makeRoom, room] at none_made
  have noPanel : ¬ stack.any (fun e => panelKind e.kind) = true := fun panel => by
    unfold makeRoom at none_made
    rw [if_neg full, if_pos panel] at none_made
    split at none_made <;> exact absurd none_made (by simp)
  have devices : ∀ e ∈ stack, panelKind e.kind = false := fun e mem => Bool.eq_false_iff.2 fun panel =>
    noPanel (List.any_eq_true.2 ⟨e, mem, panel⟩)
  have kinds : deviceKinds stack = stack.map (·.kind) := by
    unfold deviceKinds
    refine List.filter_eq_self.2 fun k mem => ?_
    obtain ⟨e, inStack, rfl⟩ := List.mem_map.1 mem
    simp [devices e inStack]
  obtain ⟨-, distinct, -⟩ := law
  rw [kinds] at distinct
  have others : stack.map (·.kind) ⊆
      [OverrideKind.startHold, .esdIsolate, .tripIsolate, .plantTripIsolate, .rejoinHold].filter (fun k => k ≠ kind) := by
    intro k mem
    obtain ⟨e, inStack, rfl⟩ := List.mem_map.1 mem
    have isDevice := devices e inStack
    refine List.mem_filter.2 ⟨?_, by simpa using absent e inStack⟩
    revert isDevice
    cases e.kind <;> simp [panelKind]
  have few := (distinct.subperm others).length_le
  rw [List.length_map] at few
  have four : ([OverrideKind.startHold, .esdIsolate, .tripIsolate, .plantTripIsolate, .rejoinHold].filter
      (fun k => k ≠ kind)).length = 4 := by
    revert device
    cases kind <;> simp [panelKind]
  rw [four] at few
  have capacity : stackCapacity = 5 := rfl
  omega

/-- After a device's push the stack holds a counting entry of its kind. -/
theorem devicePush_holds {kind : OverrideKind} (device : panelKind kind = false) {s : State}
    (law : stackLaw s.ovs.stack) : ∃ e ∈ (devicePush kind s).ovs.stack, e.kind = kind ∧ e.void = false := by
  by_cases present : ∃ e ∈ s.ovs.stack, e.kind = kind ∧ e.void = false
  · have stays : devicePush kind s = s := if_pos (by simpa using present)
    rw [stays]
    exact present
  · by_cases stands : ∃ e ∈ s.ovs.stack, e.kind = kind
    · rw [devicePush_of_void device present stands]
      exact ⟨_, List.mem_cons_self, rfl, rfl⟩
    · have absent : ∀ e ∈ s.ovs.stack, e.kind ≠ kind := fun e mem ofKind => stands ⟨e, mem, ofKind⟩
      obtain ⟨⟨stack, dropped⟩, room⟩ := Option.ne_none_iff_exists'.1 (makeRoom_ne_none law device absent)
      rw [devicePush_of_room device absent room, raiseIf_ovs]
      exact ⟨_, List.mem_cons_self, rfl, rfl⟩

/-! The address clash (R22). -/

theorem demandMuted_eq (d : PendingDemand) :
    demandMuted d = if d.stage = .idle then d else { stage := .idle, outcome := .notTaken } := by
  obtain ⟨stage, outcome⟩ := d
  cases stage <;> rfl

/-- A MUTED node with no attempt takes nothing of a delivery (log 12). -/
theorem deliverFrame_of_muted {s : State} (muted : s.ae.join = .muted) (silent : s.lc.muted = true)
    (idle : s.ttu.phase = .idle) (own tracked : Bool) (f : GoodFrame) : deliverFrame own tracked f s = s := by
  have journaled : ∀ r, recordOf f = some r → deliverFrame own tracked f s = s := by
    intro r record
    rw [deliverFrame_of_record record]
    refine journalFrame_of_closed fun both => ?_
    have isOpen := (journalOpen_eq_true_iff s).1 both.1
    rw [muted] at isOpen
    simp at isOpen
  have refused : ∀ q : QueuedFrame, (offerFrame q s).2 = s := fun q => by
    rw [offerFrame_of_refused (by simp [admits, silent])]
  have unconsidered : ∀ (sender a : Address) (n : Nat), s.considersBlock sender a n = false := fun sender a n => by
    unfold State.considersBlock
    rw [idle]
    simp [currentAttempt]
  cases body : f.body with
  | mark =>
    unfold deliverFrame takeMark
    rw [body, muted]
  | ask server attempt =>
    unfold deliverFrame askReceived refuseAsk
    rw [body]
    dsimp only
    split
    · rfl
    · rw [if_pos (by rw [muted]; decide), refused]
  | blockHeader a n status count round digest =>
    unfold deliverFrame
    rw [body]
    exact if_neg (by rw [unconsidered]; decide)
  | blockData a n index bytes =>
    unfold deliverFrame
    rw [body]
    exact if_neg (by rw [unconsidered]; decide)
  | _ => exact journaled _ (by unfold recordOf; rw [body])

theorem mutedEngine_eq (a : AllocationEngine) (now : Nat) : mutedEngine a now =
    { a with
      join := .muted, roundTimer := .running now, silenceTimer := .stopped, journal := [], announced := false
      demand := if a.demand.stage = .idle then a.demand else { stage := .idle, outcome := .notTaken }
      hold := [] } := by
  unfold mutedEngine
  rw [demandMuted_eq]

/-- The clash: the queue emptied, the attempt ended, the AE MUTED, REJOIN-HOLD pushed (R22, R34, R98, R116). -/
theorem performClash_eq (h : State) : performClash h =
    raised (raised (giveLead false (devicePush .rejoinHold
      { h with
        lc := { h.lc with queue := [], onLine := none, muted := true }
        ttu := { phase := .idle, attempts := 0, buffer := [], answerTimer := .stopped, stallTimer := .stopped }
        ae := mutedEngine h.ae h.now })) .addressClash) .joinChange := rfl

/-- Settles O13: the clash, of whose frame the MUTED node takes nothing. -/
theorem addressClashMutes : Obligations.AddressClashMutes := by
  unfold Obligations.AddressClashMutes
  intro s chars framingError f ends sender noPart join unmuted h muted pushed t
  have clash : performClash h = t := by
    have offLine : h.lc.onLine = none := ends.1
    rw [performClash_eq, mutedEngine_eq, ← offLine]
    rfl
  have work : StackWork muted pushed := stackWork_devicePush .rejoinHold muted
  have ttu : t.ttu = muted.ttu := work.ttu
  have delivered : deliverFrame false false f t = t :=
    deliverFrame_of_muted (congrArg (·.join) work.ae) (congrArg (·.muted) work.lc) (congrArg (·.phase) work.ttu) ..
  refine ⟨?_, fun n notClash notDrop notJoin => ?_, fun law => devicePush_holds rfl (s := muted) law, ?_⟩
  · rw [exec_frameEnd_clash ends sender noPart join unmuted]
    have settled : settle t = t := settle_of_lt (ttu ▸ Nat.zero_lt_succ 2)
    rw [show performClash (heardGood (frameEnded s chars.length) f.sender) = t from clash, delivered, settled]
  · have flags : t.pp.flags = withFlag (withFlag pushed.pp.flags .addressClash) .joinChange := rfl
    rw [flags, getLsbD_withFlag_other notJoin, getLsbD_withFlag_other notClash, flags_devicePush .rejoinHold muted notDrop]
    rfl
  · have vd : pushed.vd = { s.vd with target := pushed.vd.target } := devicePush_vd_target .rejoinHold muted
    have shape : pushed = { muted with ovs := pushed.ovs, vd := pushed.vd, pp := { s.pp with flags := pushed.pp.flags } } :=
      work.shape
    generalize pushed.vd.target = target at vd
    have whole : t = { pushed with
        vd := { pushed.vd with lead := false }
        pp := { pushed.pp with flags := t.pp.flags } } := rfl
    rw [whole, shape, vd]

/-! The blocks of the transfer (R110, R111). -/

theorem considersBlock_eq_true_iff (s : State) (sender a : Address) (n : Nat) :
    s.considersBlock sender a n = true ↔
      a = s.address ∧ ((∃ m, s.ttu.phase = .asked sender m ∧ n = m % 16) ∨
        ∃ m r d c i, s.ttu.phase = .loading sender m r d c i ∧ n = m % 16) := by
  unfold State.considersBlock
  rw [decide_eq_true_iff]
  refine and_congr_right fun _ => ?_
  cases phase : s.ttu.phase with
  | idle => simp [currentAttempt]
  | serving asker m r d c i => simp [currentAttempt]
  | asked server m =>
    simp only [currentAttempt, blockAttempt, Option.some.injEq, Prod.mk.injEq, TransferPhase.asked.injEq, reduceCtorEq,
      false_and, exists_const, or_false]
    constructor
    · rintro ⟨rfl, rfl⟩
      exact ⟨m, ⟨rfl, rfl⟩, rfl⟩
    · rintro ⟨k, ⟨rfl, rfl⟩, rfl⟩
      exact ⟨rfl, rfl⟩
  | loading server m r d c i =>
    simp only [currentAttempt, blockAttempt, Option.some.injEq, Prod.mk.injEq, TransferPhase.loading.injEq, reduceCtorEq,
      false_and, exists_const, false_or]
    constructor
    · rintro ⟨rfl, rfl⟩
      exact ⟨m, r, d, c, i, ⟨rfl, rfl, rfl, rfl, rfl, rfl⟩, rfl⟩
    · rintro ⟨k, r', d', c', i', ⟨rfl, rfl, rfl, rfl, rfl, rfl⟩, rfl⟩
      exact ⟨rfl, rfl⟩

/-- A BLOCK 0 delivered. -/
theorem deliverFrame_header {f : GoodFrame} {a : Address} {n count : Nat} {status : BlockStatus} {round digest : Word16}
    (body : f.body = .blockHeader a n status count round digest) (own tracked : Bool) (s : State) :
    deliverFrame own tracked f s =
      if s.considersBlock f.sender a n = true then headerReceived status count round digest s else s := by
  unfold deliverFrame
  rw [body]

/-- A data block delivered. -/
theorem deliverFrame_data {f : GoodFrame} {a : Address} {n index : Nat} {bytes : List Byte}
    (body : f.body = .blockData a n index bytes) (own tracked : Bool) (s : State) :
    deliverFrame own tracked f s =
      if s.considersBlock f.sender a n = true then dataReceived f.round index bytes s else s := by
  unfold deliverFrame
  rw [body]

theorem blockFits_eq_true_iff (round : Word16) (count expected index : Nat) (carried : Word16) (bytes : List Byte) :
    blockFits round count expected index carried bytes = true ↔
      index = expected ∧ carried = round ∧ 1 ≤ bytes.length ∧ bytes.length ≤ 22 ∧
        (index < count → bytes.length = 22) := decide_eq_true_iff

theorem snapshotAccepted_eq_true_iff (body : List Byte) (digest : Word16) :
    snapshotAccepted body digest = true ↔
      (byteAt body 261).toNat ≤ 12 ∧ body.length = 262 + 19 * (byteAt body 261).toNat ∧ crc16 body = digest :=
  decide_eq_true_iff

/-- A considered data block in LOADING: taken, the last of the snapshot, or a failure of the attempt. -/
theorem dataReceived_of_loading {s : State} {server : Address} {attempt count expected : Nat} {round digest : Word16}
    (phase : s.ttu.phase = .loading server attempt round digest count expected) (carried : Word16) (index : Nat)
    (bytes : List Byte) :
    dataReceived carried index bytes s =
      if blockFits round count expected index carried bytes = true then
        (if index = count then checkSnapshot (s.ttu.buffer ++ bytes) digest s
        else
          s.setTtu
            { s.ttu with
              phase := .loading server attempt round digest count (expected + 1)
              buffer := s.ttu.buffer ++ bytes
              stallTimer := .running s.now })
      else attemptFail s := by
  unfold dataReceived
  rw [phase]

theorem headerReceived_of_asked {s : State} {server : Address} {attempt : Nat}
    (phase : s.ttu.phase = .asked server attempt) (status : BlockStatus) (count : Nat) (round digest : Word16) :
    headerReceived status count round digest s =
      if status = .clear ∧ round = s.ae.round ∧ 12 ≤ count ∧ count ≤ 23 then
        untrack isAsk
          (s.setTtu
            { s.ttu with
              phase := .loading server attempt round digest count 1, buffer := [], answerTimer := .stopped
              stallTimer := .running s.now })
      else attemptFail s := by
  unfold headerReceived
  rw [phase]

/-- Settles O38: BLOCK 0, the data block that is due, and a BLOCK that is not considered. -/
theorem blocksTaken : Obligations.BlocksTaken := by
  unfold Obligations.BlocksTaken
  intro s chars framingError f attempt count k digest bytes ends clear few h
  have noSettle : ∀ {u : State}, u.ttu.attempts = s.ttu.attempts → settle u = u := fun same =>
    settle_of_lt (by rw [same]; exact few)
  have delivered := exec_frameEnd_peer ends clear
  refine ⟨fun body phase low high => ?_, fun body phase early full => ?_, fun a n kinds notAsked notLoading => ?_⟩
  · have considered : h.considersBlock f.sender s.address (attempt % 16) = true :=
      (considersBlock_eq_true_iff ..).2 ⟨rfl, .inl ⟨attempt, phase, rfl⟩⟩
    rw [delivered, deliverFrame_header body, if_pos considered, headerReceived_of_asked (s := h) phase,
      if_pos ⟨rfl, rfl, low, high⟩]
    exact congrArg _ (noSettle rfl)
  · have considered : h.considersBlock f.sender s.address (attempt % 16) = true :=
      (considersBlock_eq_true_iff ..).2 ⟨rfl, .inr ⟨attempt, _, _, _, _, phase, rfl⟩⟩
    rw [delivered, deliverFrame_data body, if_pos considered, dataReceived_of_loading (s := h) phase,
      if_pos ((blockFits_eq_true_iff ..).2 ⟨rfl, rfl, by omega, by omega, fun _ => full⟩), if_neg (by omega)]
    exact congrArg _ (noSettle rfl)
  · have unconsidered : ¬ h.considersBlock f.sender a n = true := by
      intro considered
      obtain ⟨own, ⟨m, phase, number⟩ | ⟨m, r, d, c, i, phase, number⟩⟩ := (considersBlock_eq_true_iff ..).1 considered
      · exact notAsked m phase number own
      · exact notLoading m r d c i phase number own
    have stays : deliverFrame false false f h = h := by
      rcases kinds with ⟨status, m, r, d, body⟩ | ⟨m, b, body⟩
      · rw [deliverFrame_header body, if_neg unconsidered]
      · rw [deliverFrame_data body, if_neg unconsidered]
    rw [delivered, stays]
    exact congrArg _ (noSettle rfl)

/-! The failures of an attempt (R107, R110 to R113). -/

/-- A failing BLOCK fails the attempt at its delivery. -/
theorem deliverFrame_of_failing {s : State} {f : GoodFrame} {length : Nat} (failing : failingBlock s f) :
    deliverFrame false false f (heardGood (frameEnded s length) f.sender) =
      attemptFailed (heardGood (frameEnded s length) f.sender) := by
  let h := heardGood (frameEnded s length) f.sender
  change deliverFrame false false f h = attemptFailed h
  rcases failing with ⟨attempt, phase, failure⟩ | ⟨attempt, round, digest, count, expected, phase, failure⟩
  · have considered : h.considersBlock f.sender s.address (attempt % 16) = true :=
      (considersBlock_eq_true_iff ..).2 ⟨rfl, .inl ⟨attempt, phase, rfl⟩⟩
    rcases failure with ⟨status, count, round, digest, body, refuses⟩ | ⟨index, bytes, body⟩
    · rw [deliverFrame_header body, if_pos considered, headerReceived_of_asked (s := h) phase]
      exact if_neg refuses
    · rw [deliverFrame_data body, if_pos considered]
      unfold dataReceived
      rw [show h.ttu.phase = _ from phase]
      rfl
  · have considered : h.considersBlock f.sender s.address (attempt % 16) = true :=
      (considersBlock_eq_true_iff ..).2 ⟨rfl, .inr ⟨attempt, _, _, _, _, phase, rfl⟩⟩
    rcases failure with ⟨status, n, r, d, body⟩ | ⟨index, bytes, body, notDue⟩
    · rw [deliverFrame_header body, if_pos considered]
      unfold headerReceived
      rw [show h.ttu.phase = _ from phase]
      rfl
    · rw [deliverFrame_data body, if_pos considered, dataReceived_of_loading (s := h) phase]
      by_cases fits : blockFits round count expected index f.round bytes = true
      · have failed : ¬ (index = count → snapshotAccepted (s.ttu.buffer ++ bytes) digest = true) := by
          rw [snapshotAccepted_eq_true_iff]
          exact fun accepted => notDue ⟨(blockFits_eq_true_iff ..).1 fits, accepted⟩
        obtain ⟨last, unaccepted⟩ := Classical.not_imp.1 failed
        rw [if_pos fits, if_pos last]
        exact if_neg unaccepted
      · rw [if_neg fits]
        rfl

/-- Each cause of a failure between closes leads to it in its step. -/
theorem exec_failsAttempt {s u : State} {i : Instr} (fails : failsAttempt s u i) :
    exec i s = .next (afterFailures (attemptFailed u)) := by
  rcases fails with ⟨since, rfl, running, rfl⟩ | ⟨since, rfl, running, rfl⟩ |
    ⟨chars, framingError, f, rfl, ends, clear, failing, rfl⟩ |
    ⟨l, q, rest, server, attempt, rfl, onLine, queue, eighth, followed, ask, asked, rfl⟩
  · have due : timerDue s.ttu.answerTimer answerTime = some (since + 100000) := by rw [running]; rfl
    change execAnswerTimerExpiry s = _
    unfold execAnswerTimerExpiry
    rw [due, ← settle_eq_afterFailures]
    rfl
  · have due : timerDue s.ttu.stallTimer stallTime = some (since + 60000) := by rw [running]; rfl
    change execStallTimerExpiry s = _
    unfold execStallTimerExpiry
    rw [due, ← settle_eq_afterFailures]
    rfl
  · rw [exec_frameEnd_peer ends clear, deliverFrame_of_failing failing, settle_eq_afterFailures]
  · exact exec_collision_of_ask onLine queue eighth followed ask ⟨server, attempt, asked⟩

/-- Settles O40, cause by cause. -/
theorem attemptFails : Obligations.AttemptFails := by
  unfold Obligations.AttemptFails
  exact fun s u i fails _ => exec_failsAttempt fails

/-- Where a failure falls, all but the clock, the link and the silence timer stand as before it. -/
theorem failsAttempt_shape {s u : State} {i : Instr} (fails : failsAttempt s u i) :
    u = { s with now := u.now, lc := u.lc, ae := { s.ae with silenceTimer := u.ae.silenceTimer } } := by
  rcases fails with ⟨since, rfl, -, rfl⟩ | ⟨since, rfl, -, rfl⟩ | ⟨chars, framingError, f, rfl, -, -, -, rfl⟩ |
    ⟨l, q, rest, server, attempt, rfl, -, -, -, -, -, -, rfl⟩ <;> rfl

/-- The node at REJOIN, before REJOIN-HOLD is pushed (R115). -/
def rejoinBase (u : State) : State :=
  { u with
    lc := { u.lc with queue := [], onLine := none }
    ttu := { phase := .idle, attempts := 0, buffer := [], answerTimer := .stopped, stallTimer := .stopped }
    ae :=
      { u.ae with
        join := .listening, round := 0, roundTimer := .running u.now
        silenceTimer := if lineBusy u.lc.line = true then .held else .running u.now
        journal := [], committed := clearedState, digest := 0, ownBurn := 0, cap := none, ownLive := false
        announced := false, demand := { stage := .idle, outcome := .verdict .none }, hold := [] }
    vd :=
      { u.vd with
        baseSetpoint := if u.role = .producer ∨ u.role = .store then u.profileWord 2 else 0, lead := false } }

theorem rejoined_eq (u : State) :
    rejoined u =
      raised (withStack (devicePush .rejoinHold (rejoinBase u)) (devicePush .rejoinHold (rejoinBase u)).ovs.stack)
        .joinChange := rfl

/-- The stack's work at REJOIN, and the entry it leaves. -/
theorem stackWork_rejoin (u : State) :
    StackWork (rejoinBase u)
      (withStack (devicePush .rejoinHold (rejoinBase u)) (devicePush .rejoinHold (rejoinBase u)).ovs.stack) :=
  (stackWork_devicePush .rejoinHold _).trans (stackWork_withStack _ _ id)

/-- What REJOIN leaves alone of the node: its address and role, the EIU, the Sampler, the clock and the panel. -/
theorem rejoined_shape (u : State) : rejoined u = { u with
    lc := (rejoined u).lc, ae := (rejoined u).ae, ttu := (rejoined u).ttu, ovs := (rejoined u).ovs
    vd := (rejoined u).vd, pp := { u.pp with flags := (rejoined u).pp.flags } } := by
  have shape := (stackWork_rejoin u).shape
  rw [rejoined_eq]
  generalize withStack (devicePush .rejoinHold (rejoinBase u)) (devicePush .rejoinHold (rejoinBase u)).ovs.stack = w at shape
  rw [shape]
  rfl

/-- Settles O41: the node that REJOIN leaves, part by part. -/
theorem thirdFailureRejoins : Obligations.ThirdFailureRejoins := by
  unfold Obligations.ThirdFailureRejoins
  intro s u i fails two law
  have from_s := failsAttempt_shape fails
  let failed := attemptFailed u
  let pushed := devicePush .rejoinHold (rejoinBase failed)
  let t := rejoined failed
  have third : exec i s = .next t := by
    have attempts : failed.ttu.attempts = 3 := by
      change u.ttu.attempts + 1 = 3
      rw [from_s, two]
    rw [exec_failsAttempt fails]
    exact congrArg _ (if_pos (Nat.le_of_eq attempts.symm))
  have work := stackWork_rejoin failed
  have ae : t.ae = (rejoinBase failed).ae := work.ae
  have lc : t.lc = (rejoinBase failed).lc := work.lc
  have ttu : t.ttu = (rejoinBase failed).ttu := work.ttu
  have vdPushed := devicePush_vd_target .rejoinHold (rejoinBase failed)
  have vd : t.vd = { (rejoinBase failed).vd with target := t.vd.target } := by
    have whole : t.vd = { pushed.vd with target := t.vd.target } := rfl
    rw [whole, vdPushed]
  have flags : ∀ n, n ≠ 11 → t.pp.flags.getLsbD n =
      (withFlag (withFlag u.pp.flags .transferFailed) .joinChange).getLsbD n := by
    intro n notDrop
    have whole : t.pp.flags = withFlag pushed.pp.flags .joinChange := rfl
    rw [whole, getLsbD_withFlag, getLsbD_withFlag, flags_devicePush .rejoinHold _ notDrop]
    rfl
  refine ⟨t, third, ?_⟩
  have base : (rejoinBase failed).ae = { (rejoinBase failed).ae with
      plantTrip := s.ae.plantTrip, lastTier := s.ae.lastTier, latched := s.ae.latched } := by
    change _ = { (rejoinBase failed).ae with
      plantTrip := s.ae.plantTrip, lastTier := s.ae.lastTier, latched := s.ae.latched }
    have kept : u.ae.plantTrip = s.ae.plantTrip ∧ u.ae.lastTier = s.ae.lastTier ∧ u.ae.latched = s.ae.latched := by
      rw [from_s]
      exact ⟨rfl, rfl, rfl⟩
    obtain ⟨plantTrip, lastTier, latched⟩ := kept
    rw [← plantTrip, ← lastTier, ← latched]
    rfl
  have ovs : (rejoinBase failed).ovs = s.ovs := by
    change u.ovs = s.ovs
    rw [from_s]
  have holds : ∃ e ∈ t.ovs.stack, e.kind = .rejoinHold ∧ e.void = false :=
    devicePush_holds (s := rejoinBase failed) rfl (ovs ▸ law)
  have setpoint : t.vd.baseSetpoint = if s.role = .producer ∨ s.role = .store then s.profileWord 2 else 0 := by
    have base : (rejoinBase failed).vd.baseSetpoint =
        if u.role = .producer ∨ u.role = .store then u.profileWord 2 else 0 := rfl
    rw [vd, base, from_s]
    rfl
  have lead : t.vd.lead = false := by rw [vd]; rfl
  have join : t.pp.flags.getLsbD 15 = true := by
    rw [flags 15 (by decide)]
    exact getLsbD_withFlag_same _ .joinChange
  have transfer : t.pp.flags.getLsbD 6 = true := by
    rw [flags 6 (by decide), getLsbD_withFlag_other (by decide)]
    exact getLsbD_withFlag_same _ .transferFailed
  rw [base] at ae
  refine ⟨by rw [ae]; rfl, by rw [ae]; rfl, by rw [ae]; rfl, by rw [ae]; rfl, by rw [ae]; rfl, by rw [ae]; rfl,
    by rw [ae]; rfl, by rw [ae]; rfl, by rw [ae]; rfl, by rw [ae]; rfl, by rw [ae], by rw [ae], by rw [ae],
    by rw [ae]; rfl, by rw [ae]; rfl, ttu, lc, holds, lead, setpoint, transfer, join, fun n notFailed notDrop notJoin => ?_,
    ?_, ?_⟩
  · rw [flags n notDrop, getLsbD_withFlag_other notJoin, getLsbD_withFlag_other notFailed, from_s]
  · have same : u.vd = s.vd := by rw [from_s]
    have whole : t.vd = { u.vd with baseSetpoint := t.vd.baseSetpoint, lead := t.vd.lead, target := t.vd.target } := by
      rw [vd]
      rfl
    rw [same] at whole
    exact whole
  · exact rejoined_shape failed

end Sys2Proof.Transfers
end

section
/-! SUPPORT. Serving at the link: the answer to an ASK, and the frames of the transfer as they count as sent (R107 to
R109). -/

namespace Sys2Proof.Serving

open Sys2Proof.Machine Sys2Proof.Safety Sys2Proof.Laws Sys2Proof.Terms Sys2Proof.Offers Sys2Proof.Timers
  Sys2Proof.Link Sys2Proof.Transfers

/-- A server's BLOCK, the first or a later one, followed as given. -/
def blockFrame (body : FrameBody) (tracked : Bool) : QueuedFrame :=
  { body, originator := .ttu, tracked, collisions := 0 }

theorem frameClass_of_isBlock {body : FrameBody} (block : isBlock body = true) : frameClass body = .ordinary := by
  cases body with
  | blockHeader => rfl
  | blockData => rfl
  | _ => exact absurd block Bool.false_ne_true

/-- A BLOCK refused at a full queue raises no flag. -/
theorem refusedFull_of_isBlock {body : FrameBody} (block : isBlock body = true) (s : State) :
    refusedFull s body = discarded s := by
  cases body with
  | blockHeader => rfl
  | blockData => rfl
  | _ => exact absurd block Bool.false_ne_true

/-! A BLOCK is ordinary: it takes room or is refused. -/

section

variable {s : State} {body : FrameBody} (rounds : s.ae.join = .joined ∨ s.ae.join = .diverged) (unmuted : s.lc.muted = false)
  (offLine : s.lc.onLine = none) (block : isBlock body = true)

include rounds unmuted offLine block

theorem offerFrame_block_of_room (tracked : Bool) (room : s.lc.queue.length < 8) :
    offerFrame (blockFrame body tracked) s = (true, requeued s (s.lc.queue ++ [blockFrame body tracked])) := by
  rw [offerFrame_ordinary_of_room (admits_of_inRounds rounds unmuted _) (frameClass_of_isBlock block) room,
    waitingFrames_of_offLine offLine]

omit offLine in
theorem offerFrame_block_of_full (tracked : Bool) (full : 8 ≤ s.lc.queue.length) :
    offerFrame (blockFrame body tracked) s = (false, discarded s) := by
  rw [offerFrame_ordinary_of_full (admits_of_inRounds rounds unmuted _) (frameClass_of_isBlock block) full]
  exact congrArg _ (refusedFull_of_isBlock block s)

theorem offerBlock_of_room (room : s.lc.queue.length < 8) :
    offerBlock body s = requeued s (s.lc.queue ++ [blockFrame body true]) := by
  unfold offerBlock
  rw [show (⟨body, .ttu, true, 0⟩ : QueuedFrame) = blockFrame body true from rfl,
    offerFrame_block_of_room rounds unmuted offLine block true room]
  rfl

omit offLine in
theorem offerBlock_of_full (full : 8 ≤ s.lc.queue.length) : offerBlock body s = servingOver (discarded s) := by
  unfold offerBlock
  rw [show (⟨body, .ttu, true, 0⟩ : QueuedFrame) = blockFrame body true from rfl,
    offerFrame_block_of_full rounds unmuted block true full]
  rfl

end

/-! An ASK delivered (R108). -/

theorem askReceived_of_other {asker server : Address} {s : State} (other : server ≠ s.address) (attempt : Nat) :
    askReceived asker server attempt s = s := if_pos other

theorem askReceived_of_outside {asker server : Address} {s : State}
    (outside : s.ae.join = .profile ∨ s.ae.join = .listening ∨ s.ae.join = .muted) (attempt : Nat) :
    askReceived asker server attempt s = s := by
  have notJoined : s.ae.join ≠ .joined := by rcases outside with h | h | h <;> rw [h] <;> decide
  have closed : admits s.ae.join s.lc.muted (.blockHeader asker (blockAttempt attempt) .notEligible 0 s.ae.round 0) =
      false := by
    rw [admits_of_outside outside]
    rfl
  have dropped : refuseAsk asker attempt .notEligible s = s := by
    unfold refuseAsk
    rw [offerFrame_of_refused closed]
  by_cases other : server ≠ s.address
  · exact if_pos other
  · exact ((if_neg other).trans (if_pos notJoined)).trans dropped

theorem askReceived_of_diverged {asker : Address} {s : State} (diverged : s.ae.join = .diverged) (attempt : Nat) :
    askReceived asker s.address attempt s = refuseAsk asker attempt .notEligible s := by
  unfold askReceived
  rw [if_neg (not_not.2 rfl), if_pos (by rw [diverged]; decide)]

theorem askReceived_of_idle {asker : Address} {s : State} (joined : s.ae.join = .joined) (attempt : Nat)
    (idle : s.ttu.phase = .idle) : askReceived asker s.address attempt s = beginServing asker attempt s := by
  unfold askReceived
  rw [if_neg (not_not.2 rfl), if_neg (not_not.2 joined), idle]

theorem askReceived_of_serving {asker served : Address} {s : State} (joined : s.ae.join = .joined) (attempt : Nat)
    {m d k : Nat} {round digest : Word16} (serving : s.ttu.phase = .serving served m round digest d k) :
    askReceived asker s.address attempt s =
      if served = asker then beginServing asker attempt (servingEnd s) else refuseAsk asker attempt .busy s := by
  unfold askReceived
  rw [if_neg (not_not.2 rfl), if_neg (not_not.2 joined), serving]

theorem askReceived_of_asking {asker : Address} {s : State} (joined : s.ae.join = .joined) (attempt : Nat)
    (inAttempt : asking s.ttu.phase = true) :
    askReceived asker s.address attempt s = refuseAsk asker attempt .notEligible s := by
  unfold askReceived
  rw [if_neg (not_not.2 rfl), if_neg (not_not.2 joined)]
  cases phase : s.ttu.phase with
  | asked => rfl
  | loading => rfl
  | idle => exact absurd inAttempt (by rw [phase]; exact Bool.false_ne_true)
  | serving => exact absurd inAttempt (by rw [phase]; exact Bool.false_ne_true)

/-- A refusal is one BLOCK 0 that nothing follows. -/
theorem refuseAsk_of_room {s : State} (rounds : s.ae.join = .joined ∨ s.ae.join = .diverged) (unmuted : s.lc.muted = false)
    (offLine : s.lc.onLine = none) (asker : Address) (attempt : Nat) (status : BlockStatus) (room : s.lc.queue.length < 8) :
    refuseAsk asker attempt status s = requeued s (s.lc.queue ++
      [blockFrame (.blockHeader asker (attempt % 16) status 0 s.ae.round 0) false]) :=
  congrArg (·.2) (offerFrame_block_of_room rounds unmuted offLine rfl false room)

theorem refuseAsk_of_full {s : State} (rounds : s.ae.join = .joined ∨ s.ae.join = .diverged) (unmuted : s.lc.muted = false)
    (asker : Address) (attempt : Nat) (status : BlockStatus) (full : 8 ≤ s.lc.queue.length) :
    refuseAsk asker attempt status s = discarded s :=
  congrArg (·.2) (offerFrame_block_of_full rounds unmuted
    (body := .blockHeader asker (blockAttempt attempt) status 0 s.ae.round 0) rfl false full)

/-- The TTU that begins to serve the committed state (R108). -/
def servingUnit (asker : Address) (attempt : Nat) (s : State) : TransferUnit :=
  { s.ttu with
    phase := .serving asker attempt s.ae.round s.ae.digest (((snapshotBody s.ae.committed).length + 21) / 22) 0
    buffer := snapshotBody s.ae.committed }

section

variable {s : State} (joined : s.ae.join = .joined) (unmuted : s.lc.muted = false) (offLine : s.lc.onLine = none)

include joined unmuted offLine

theorem beginServing_of_room (asker : Address) (attempt : Nat) (room : s.lc.queue.length < 8) :
    beginServing asker attempt s =
      requeued { s with ttu := servingUnit asker attempt s } (s.lc.queue ++
        [blockFrame (.blockHeader asker (attempt % 16) .clear (((snapshotBody s.ae.committed).length + 21) / 22) s.ae.round
          s.ae.digest) true]) :=
  offerBlock_of_room (s := { s with ttu := servingUnit asker attempt s }) (.inl joined) unmuted offLine rfl room

omit offLine in
theorem beginServing_of_full (asker : Address) (attempt : Nat) (full : 8 ≤ s.lc.queue.length) :
    beginServing asker attempt s = servingOver (discarded { s with ttu := servingUnit asker attempt s }) :=
  offerBlock_of_full (s := { s with ttu := servingUnit asker attempt s })
    (body := .blockHeader asker (blockAttempt attempt) .clear (blockCount (snapshotBody s.ae.committed).length) s.ae.round
      s.ae.digest)
    (.inl joined) unmuted rfl full

end

/-- Without a frame on the line the waiting frames are the queue. -/
theorem requeued_of_offLine {s : State} (offLine : s.lc.onLine = none) (w : List QueuedFrame) :
    requeued s w = { s with lc := { s.lc with queue := w } } := by
  unfold requeued frontFrames
  rw [offLine]
  rfl

/-- The node with a queue of its own choice and an idle TTU, about to serve. -/
def idleWith (s : State) (queue : List QueuedFrame) : State :=
  { s with lc := { s.lc with queue }, ttu := { s.ttu with phase := .idle } }

theorem beginServing_idleWith_of_room {s : State} (joined : s.ae.join = .joined) (unmuted : s.lc.muted = false)
    (offLine : s.lc.onLine = none) (asker : Address) (attempt : Nat) {queue : List QueuedFrame} (room : queue.length < 8) :
    beginServing asker attempt (idleWith s queue) =
      requeued { s with ttu := servingUnit asker attempt s } (queue ++
        [blockFrame (.blockHeader asker (attempt % 16) .clear (((snapshotBody s.ae.committed).length + 21) / 22) s.ae.round
          s.ae.digest) true]) :=
  have served := beginServing_of_room (s := idleWith s queue) joined unmuted offLine asker attempt room
  have all := requeued_of_offLine (s := { idleWith s queue with ttu := servingUnit asker attempt (idleWith s queue) }) offLine
  have new := requeued_of_offLine (s := { s with ttu := servingUnit asker attempt s }) offLine
  served.trans ((all _).trans (new _).symm)

theorem beginServing_idleWith_of_full {s : State} (joined : s.ae.join = .joined) (unmuted : s.lc.muted = false)
    (offLine : s.lc.onLine = none) (asker : Address) (attempt : Nat) {queue : List QueuedFrame} (full : 8 ≤ queue.length) :
    beginServing asker attempt (idleWith s queue) =
      servingOver (discarded (requeued
        { s with ttu := { s.ttu with phase := .idle, buffer := snapshotBody s.ae.committed } } queue)) := by
  have served := beginServing_of_full (s := idleWith s queue) joined unmuted asker attempt full
  have new := requeued_of_offLine
    (s := { s with ttu := { s.ttu with phase := .idle, buffer := snapshotBody s.ae.committed } }) offLine queue
  exact served.trans (congrArg (fun u => servingOver (discarded u)) new).symm

/-- SERVING ended where no frame is on the line: the blocks followed leave, and none that is left is followed. -/
theorem servingEnd_of_offLine {s : State} (offLine : s.lc.onLine = none) :
    servingEnd s = { s with
      lc := { s.lc with queue := s.lc.queue.filter fun q => !(q.tracked && isBlock q.body) }
      ttu := { s.ttu with phase := .idle } } := by
  have front : frontFrames s.lc = [] := by
    unfold frontFrames
    rw [offLine]
    rfl
  have unchanged : ∀ q ∈ s.lc.queue.filter (fun q => !(q.tracked && isBlock q.body)), unfollowed isBlock q = q := by
    intro q mem
    obtain ⟨-, kept⟩ := List.mem_filter.1 mem
    unfold unfollowed
    split
    next block =>
      have unfollowed : q.tracked = false := by simpa [block] using kept
      rw [← unfollowed]
    next => rfl
  rw [servingEnd_eq_servingOver]
  unfold servingOver
  rw [waitingFrames_of_offLine offLine, front, List.nil_append, List.map_congr_left unchanged, List.map_id']

/-- Settles O36: the answer by the join state and the phase of the TTU. -/
theorem askAnswered : Obligations.AskAnswered := by
  unfold Obligations.AskAnswered
  intro s chars framingError f server attempt ends body peer few h snapshot n block0 following serves refuses
  have delivered : ∀ {t : State}, askReceived f.sender server attempt h = t → t.ttu.attempts = s.ttu.attempts →
      exec (.frameEnd chars framingError) s = .next t := by
    intro t received attempts
    have routed : deliverFrame false false f h = askReceived f.sender server attempt h := by
      unfold deliverFrame
      rw [body]
    have unsettled : settle t = t := settle_of_lt (by rw [attempts]; exact few)
    rw [exec_frameEnd_peer ends (.inl peer), routed, received, unsettled]
  have offLine : h.lc.onLine = none := ends.1
  have refusing : ∀ status, (h.ae.join = .joined ∨ h.ae.join = .diverged) → h.lc.muted = false → server = h.address →
      askReceived f.sender h.address attempt h = refuseAsk f.sender attempt status h → refuses status := by
    intro status rounds unmuted own refused
    refine ⟨fun room => delivered ?_ rfl, fun full => delivered ?_ rfl⟩
    · rw [own, refused, refuseAsk_of_room rounds unmuted offLine _ _ _ room]
      rfl
    · rw [own, refused, refuseAsk_of_full rounds unmuted _ _ _ full]
  have serving : ∀ (queue : List QueuedFrame), h.ae.join = .joined → h.lc.muted = false → server = h.address →
      askReceived f.sender h.address attempt h = beginServing f.sender attempt (idleWith h queue) → serves queue := by
    intro queue joined unmuted own served
    refine ⟨fun room => delivered ?_ rfl, fun full => delivered ?_ rfl⟩
    · rw [own, served]
      exact beginServing_idleWith_of_room joined unmuted offLine _ _ room
    · rw [own, served]
      exact beginServing_idleWith_of_full joined unmuted offLine _ _ full
  have idleAlready : s.ttu.phase = .idle → h = idleWith h s.lc.queue := by
    intro idle
    unfold idleWith
    rw [← idle]
    rfl
  refine ⟨fun other => delivered (askReceived_of_other (s := h) other attempt) rfl,
    fun _ outside => delivered (askReceived_of_outside (s := h) outside attempt) rfl,
    fun own unmuted => ⟨fun joined idle => ?_, fun asker m r d k i joined phase => ⟨fun same => ?_, fun other => ?_⟩, ?_⟩⟩
  · refine serving s.lc.queue joined unmuted own ?_
    rw [← idleAlready idle]
    exact askReceived_of_idle (s := h) joined attempt idle
  · refine serving following joined unmuted own ?_
    have restart := servingEnd_of_offLine offLine
    exact ((askReceived_of_serving (s := h) joined attempt phase).trans (if_pos same)).trans
      (congrArg (beginServing f.sender attempt) restart)
  · exact refusing .busy (.inl joined) unmuted own
      ((askReceived_of_serving (s := h) joined attempt phase).trans (if_neg other))
  · rintro (diverged | ⟨joined, inAttempt⟩)
    · exact refusing .notEligible (.inr diverged) unmuted own (askReceived_of_diverged (s := h) diverged attempt)
    · exact refusing .notEligible (.inl joined) unmuted own (askReceived_of_asking (s := h) joined attempt inAttempt)

/-! The frames of the transfer as they count as sent (R107, R109). -/

/-- The node takes nothing of its own ASK to another station. -/
theorem deliverFrame_ownAsk {s : State} {f : GoodFrame} {server : Address} {attempt : Nat}
    (body : f.body = .ask server attempt) (other : server ≠ s.address) (own tracked : Bool) :
    deliverFrame own tracked f s = s := by
  unfold deliverFrame
  rw [body]
  exact askReceived_of_other other attempt

/-- A BLOCK to another station, or one that meets no attempt in progress, changes nothing as it is delivered. -/
theorem deliverFrame_block_of_unconsidered {s : State} {f : GoodFrame} (block : isBlock f.body = true)
    (unconsidered : ∀ a n, ((∃ status m r d, f.body = .blockHeader a n status m r d) ∨ ∃ m b, f.body = .blockData a n m b) →
      ¬ s.considersBlock f.sender a n = true) (own tracked : Bool) :
    deliverFrame own tracked f s = s := by
  cases body : f.body with
  | blockHeader a n status m r d =>
    rw [deliverFrame_header body, if_neg (unconsidered a n (.inl ⟨status, m, r, d, body⟩))]
  | blockData a n m b => rw [deliverFrame_data body, if_neg (unconsidered a n (.inr ⟨m, b, body⟩))]
  | _ => exact absurd block (by rw [body]; exact Bool.false_ne_true)

theorem not_considersBlock_of_serving {s : State} (serving : isServing s.ttu.phase = true) (sender a : Address) (n : Nat) :
    ¬ s.considersBlock sender a n = true := by
  intro considered
  obtain ⟨-, ⟨m, phase, -⟩ | ⟨m, r, d, c, i, phase, -⟩⟩ := (considersBlock_eq_true_iff ..).1 considered <;>
    exact absurd serving (by rw [phase]; exact Bool.false_ne_true)

theorem sentNotice_of_unfollowed {q : QueuedFrame} (unfollowed : q.tracked = false) (s : State) : sentNotice q s = s := by
  unfold sentNotice
  rw [unfollowed]
  rfl

theorem sentNotice_ask {q : QueuedFrame} {server : Address} {attempt : Nat} (followed : q.tracked = true)
    (ask : q.body = .ask server attempt) (s : State) : sentNotice q s = askSent s := by
  unfold sentNotice
  rw [if_pos followed, ask]

theorem sentNotice_block {q : QueuedFrame} (followed : q.tracked = true) (block : isBlock q.body = true) (s : State) :
    sentNotice q s = blockSent s := by
  unfold sentNotice
  rw [if_pos followed]
  cases body : q.body with
  | blockHeader => rfl
  | blockData => rfl
  | _ => exact absurd block (by rw [body]; exact Bool.false_ne_true)

theorem askSent_of_asked {s : State} {server : Address} {attempt : Nat} (asked : s.ttu.phase = .asked server attempt) :
    askSent s = { s with ttu := { s.ttu with answerTimer := .running s.now } } := by
  unfold askSent
  rw [asked]
  rfl

theorem askSent_of_notAsked {s : State} (notAsked : ∀ server attempt, s.ttu.phase ≠ .asked server attempt) :
    askSent s = s := by
  unfold askSent
  cases phase : s.ttu.phase with
  | asked server attempt => exact absurd phase (notAsked server attempt)
  | _ => rfl

theorem blockSent_of_notServing {s : State} (notServing : isServing s.ttu.phase = false) : blockSent s = s := by
  unfold blockSent
  cases phase : s.ttu.phase with
  | serving => exact absurd notServing (by rw [phase]; exact Bool.true_eq_false_eq_False)
  | _ => rfl

theorem blockSent_of_serving {s : State} {asker : Address} {attempt count k : Nat} {round digest : Word16}
    (serving : s.ttu.phase = .serving asker attempt round digest count k) :
    blockSent s =
      if k < count then
        offerBlock (.blockData asker (attempt % 16) (k + 1) ((s.ttu.buffer.drop (22 * k)).take 22))
          { s with ttu := { s.ttu with phase := .serving asker attempt round digest count (k + 1) } }
      else servingOver s := by
  unfold blockSent
  rw [serving]
  rfl

/-- SERVING ended where no block that waits is followed: the queue stands. -/
theorem servingOver_of_unfollowed {s : State} (offLine : s.lc.onLine = none)
    (unfollowed : ∀ q ∈ s.lc.queue, q.tracked = true → isBlock q.body = false) :
    servingOver s = { s with ttu := { s.ttu with phase := .idle } } := by
  have all : s.lc.queue.filter (fun q => !(q.tracked && isBlock q.body)) = s.lc.queue :=
    List.filter_eq_self.2 fun q mem => by
      cases tracked : q.tracked with
      | false => rfl
      | true => rw [unfollowed q mem tracked]; rfl
  rw [← servingEnd_eq_servingOver, servingEnd_of_offLine offLine, all]

/-- Settles O37: the ASK, the frames nothing follows, and the block of SERVING. -/
theorem transferFramesSent : Obligations.TransferFramesSent := by
  unfold Obligations.TransferFramesSent
  intro s l q rest first sending few off
  have sent : ∀ {t : State},
      deliverFrame true q.tracked { sender := s.address, round := l.round, body := q.body } off = off →
      sentNotice q off = t → t.ttu.attempts = s.ttu.attempts → exec .frameSent s = .next t := by
    intro t delivered noticed attempts
    have unsettled : settle t = t := settle_of_lt (by rw [attempts]; exact few)
    rw [exec_frameSent sending, delivered, noticed, unsettled]
  refine ⟨fun server attempt followed ask other asked => ?_, fun server attempt ask other loose => ?_,
    fun asker n block other loose => ?_, fun asker attempt round digest count k followed block serving => ?_⟩
  · exact sent (deliverFrame_ownAsk (s := off) ask other _ _) ((sentNotice_ask followed ask off).trans (askSent_of_asked asked)) rfl
  · refine sent (deliverFrame_ownAsk (s := off) ask other _ _) ?_ rfl
    cases followed : q.tracked with
    | false => exact sentNotice_of_unfollowed followed off
    | true =>
      have notAsked : ∀ a m, s.ttu.phase ≠ .asked a m := loose.resolve_left (by rw [followed]; exact Bool.true_eq_false_eq_False)
      exact (sentNotice_ask followed ask off).trans (askSent_of_notAsked notAsked)
  · have isBlock : isBlock q.body = true := by
      rcases block with ⟨status, m, r, d, body⟩ | ⟨m, b, body⟩ <;> rw [body] <;> rfl
    have unconsidered : ∀ a n, ((∃ status m r d, q.body = .blockHeader a n status m r d) ∨ ∃ m b, q.body = .blockData a n m b) →
        ¬ off.considersBlock s.address a n = true := by
      intro a n' named considered
      obtain ⟨own, -⟩ := (considersBlock_eq_true_iff ..).1 considered
      have addressee : asker = a ∧ n = n' := by
        rcases block with ⟨status, m, r, d, body⟩ | ⟨m, b, body⟩
        · simpa [body] using named
        · simpa [body] using named
      exact other (addressee.1.trans own)
    refine sent (deliverFrame_block_of_unconsidered isBlock unconsidered _ _) ?_ rfl
    cases followed : q.tracked with
    | false => exact sentNotice_of_unfollowed followed off
    | true =>
      have notServing : isServing s.ttu.phase = false := loose.resolve_left (by rw [followed]; exact Bool.true_eq_false_eq_False)
      exact (sentNotice_block followed isBlock off).trans (blockSent_of_notServing notServing)
  · have delivered : deliverFrame true q.tracked { sender := s.address, round := l.round, body := q.body } off = off :=
      deliverFrame_block_of_unconsidered block
        (fun a n _ => not_considersBlock_of_serving (by rw [show off.ttu.phase = _ from serving]; rfl) _ a n) _ _
    have noticed := (sentNotice_block followed block off).trans (blockSent_of_serving (s := off) serving)
    refine ⟨fun more joined unmuted room => ?_, fun last => ?_, fun last unfollowed => ?_⟩
    · refine sent delivered ((noticed.trans (if_pos more)).trans (offerBlock_of_room (.inl joined) unmuted rfl rfl room)) rfl
    · exact sent delivered (noticed.trans (if_neg (by omega))) rfl
    · exact sent delivered ((noticed.trans (if_neg (by omega))).trans (servingOver_of_unfollowed rfl unfollowed)) rfl

end Sys2Proof.Serving
end

section
/-! SUPPORT. The claim stage and the grants behind it: a holder's records (R56, R57, R59 to R61), the laws of the queue that
a close keeps (R56, R57, R62), the grants that the gas covers (R81), and the trip close (R75). -/

namespace Sys2Proof.Contracts

open Sys2Proof.Machine Sys2Proof.Safety
open Sys2Proof.Stations hiding presenceTable
open Sys2Proof.Claims hiding claimWithoutEntry
open Sys2Proof.Gas hiding availableGas
open Sys2Proof.Grants hiding grantRule
open Sys2Proof.Burn hiding flaringFlag burnPlacement

/-! The entry of a holder in the queue. -/

section

variable {queue ahead behind : List QueueEntry} {q : QueueEntry} {a : Address} (split : queue = ahead ++ q :: behind)
  (own : q.claimant = a) (others : ∀ x ∈ ahead ++ behind, x.claimant ≠ a)

include split own others

theorem queueEntryOf_of_split : queueEntryOf queue a = some q := by
  have before : ahead.find? (fun x => decide (x.claimant = a)) = none :=
    List.find?_eq_none.2 fun x mem => by simpa using others x (List.mem_append_left _ mem)
  rw [queueEntryOf, split, List.find?_append, before, Option.none_or, List.find?_cons_of_pos (by simpa using own)]

theorem filter_claimant_of_split : queue.filter (fun x => decide (x.claimant ≠ a)) = ahead ++ behind := by
  have kept : (ahead ++ behind).filter (fun x => decide (x.claimant ≠ a)) = ahead ++ behind :=
    List.filter_eq_self.2 fun x mem => by simpa using others x mem
  rw [split, List.filter_append, List.filter_cons_of_neg (by simpa using own), ← List.filter_append, kept]

theorem changeEntry_of_split (f : QueueEntry → QueueEntry) : changeEntry queue a f = ahead ++ f q :: behind := by
  have same : ∀ part : List QueueEntry, (∀ x ∈ part, x ∈ ahead ++ behind) →
      part.map (fun x => if x.claimant = a then f x else x) = part := fun part within =>
    (List.map_congr_left fun x mem => if_neg (others x (within x mem))).trans (List.map_id' part)
  rw [changeEntry, split, List.map_append, List.map_cons, if_pos own,
    same ahead fun x mem => List.mem_append_left _ mem, same behind fun x mem => List.mem_append_right _ mem]

end

/-- A new requested tier clips the grant to it. -/
theorem clipGrant_eq_atTier (q : QueueEntry) (tier : Nat) : clipGrant { q with requested := tier } tier = atTier q tier := by
  unfold clipGrant atTier
  by_cases above : tier < q.granted
  · rw [if_pos above, if_pos above, Nat.min_eq_right (Nat.le_of_lt above)]
  · rw [if_neg above, if_neg above, Nat.min_eq_left (Nat.le_of_not_lt above)]

theorem not_contractPasses_iff (b : ClaimBody) : contractPasses b = false ↔ ¬ contractFits b := by
  rw [← Bool.not_eq_true, contractPasses_eq_true_iff]

/-- Settles O21: a CLAIM and a YIELD of a holder, of a station without an entry, and the records the stage reads. -/
theorem claimOfHolder : Obligations.ClaimOfHolder := by
  unfold Obligations.ClaimOfHolder
  refine fun p a => ⟨fun ahead q behind split own others => ?holder, fun noEntry tier => ?stranger,
    fun r noClaim noYield => ?other, fun journal table queue => rfl⟩
  case holder =>
    intro ended changed
    have entry := queueEntryOf_of_split split own others
    have claims : ∀ round b, claimRecord p (.claim a round b) = claimHeld p a b := fun round b => by rw [claimRecord, entry]
    have yields : ∀ tier, claimRecord p (.yield a tier) = yieldHeld p a q tier := fun tier => by rw [claimRecord, entry]
    have ending : endContract p a = ended := by
      rw [endContract, filter_claimant_of_split split own others]
      rfl
    refine ⟨fun round b zero => ?_, fun round b nonzero misfit => ?_, fun round b fits => ?_, (yields 0).trans ending,
      fun tier nonzero => ⟨fun within => ?_, fun beyond => ?_⟩⟩
    · exact (claims round b).trans ((if_pos zero).trans ending)
    · exact (claims round b).trans ((if_neg nonzero).trans (if_pos ((not_contractPasses_iff b).2 misfit)))
    · obtain ⟨-, -, -, -, low, -, inList⟩ := id fits
      rw [claims, claimHeld, if_neg (by omega), if_neg fun fails => (not_contractPasses_iff b).1 fails fits,
        Nat.min_eq_left inList, changeEntry_of_split split own others]
      exact congrArg (fun q' => changed q') (clipGrant_eq_atTier { q with draws := b.draws, minMethane := b.minMethane } _)
    · rw [yields, yieldHeld, if_neg nonzero, if_pos within, changeEntry_of_split split own others, clipGrant_eq_atTier]
      rfl
    · exact (yields tier).trans ((if_neg nonzero).trans (if_neg (Nat.not_le.2 beyond)))
  case stranger => rw [claimRecord, (queueEntryOf_eq_none_iff p.queue a).2 noEntry]
  case other =>
    cases r with
    | claim b round body => exact absurd rfl (noClaim b round body)
    | yield b tier => exact absurd rfl (noYield b tier)
    | _ => rfl

/-! What one record does to the queue (R57 to R61). -/

/-- An entry within its request (R62). -/
def WithinRequest (q : QueueEntry) : Prop := q.granted ≤ q.requested ∧ q.requested ≤ q.draws.length

theorem grantLaw_iff (queue : List QueueEntry) : grantLaw queue ↔ ∀ q ∈ queue, WithinRequest q := Iff.rfl

/-- The queue after a record: as it was, an entry ended, a station's entries changed in place, or a new one of a LIVE
CONSUMER that holds none at the tail. -/
inductive QueueStep (p : ClaimPass) : List QueueEntry → Prop where
  | kept : QueueStep p p.queue
  | ended (a : Address) : QueueStep p (p.queue.filter fun q => decide (q.claimant ≠ a))
  | changed (a : Address) (f : QueueEntry → QueueEntry) (claimant : ∀ q, (f q).claimant = q.claimant)
      (within : (p.queue.map (·.claimant)).Nodup → ∀ q ∈ p.queue, q.claimant = a → WithinRequest (f q)) :
      QueueStep p (changeEntry p.queue a f)
  | added (a : Address) (round : Word16) (b : ClaimBody) (able : mayHold p.table a = true) (fits : contractFits b)
      (room : p.queue.length < 12) (absent : ∀ q ∈ p.queue, q.claimant ≠ a) :
      QueueStep p (p.queue ++ [newContract a round b])

theorem clipGrant_claimant (q : QueueEntry) (tier : Nat) : (clipGrant q tier).claimant = q.claimant := by
  unfold clipGrant
  split <;> rfl

theorem withinRequest_atTier {q : QueueEntry} {tier : Nat} (inList : tier ≤ q.draws.length) : WithinRequest (atTier q tier) :=
  ⟨Nat.min_le_right .., inList⟩

theorem queueStep_claimNew {p : ClaimPass} {a : Address} (absent : ∀ q ∈ p.queue, q.claimant ≠ a) (round : Word16)
    (b : ClaimBody) : QueueStep p (claimNew p a round b).queue := by
  by_cases live : (entryOf p.table a).presence = .live
  · by_cases consumer : (entryOf p.table a).role = some .consumer
    · by_cases fits : contractFits b
      · by_cases full : 12 ≤ p.queue.length
        · rw [claimNew_of_full live consumer fits full]
          exact .kept
        · rw [claimNew_of_passed live consumer fits full]
          exact .added a round b (decide_eq_true ⟨live, consumer⟩) fits (Nat.lt_of_not_le full) absent
      · rw [claimNew_of_misfit live consumer fits]
        exact .kept
    · rw [claimNew_of_not_consumer live consumer]
      exact .kept
  · rw [claimNew_of_not_live live]
    exact .kept

theorem queueStep_claimHeld (p : ClaimPass) (a : Address) (b : ClaimBody) : QueueStep p (claimHeld p a b).queue := by
  unfold claimHeld
  split
  · exact .ended a
  · split
    · exact .kept
    next passes =>
      have fits : contractFits b := (contractPasses_eq_true_iff b).1 (by simpa using passes)
      obtain ⟨-, -, -, -, -, -, inList⟩ := fits
      refine .changed a _ (fun q => clipGrant_claimant _ _) fun _ q _ _ => ?_
      rw [Nat.min_eq_left inList]
      exact (clipGrant_eq_atTier { q with draws := b.draws, minMethane := b.minMethane } b.tier).symm ▸
        withinRequest_atTier inList

theorem queueStep_yieldHeld {p : ClaimPass} {a : Address} {q : QueueEntry} (holds : queueEntryOf p.queue a = some q)
    (tier : Nat) : QueueStep p (yieldHeld p a q tier).queue := by
  unfold yieldHeld
  split
  · exact .ended a
  · split
    next inList =>
      refine .changed a _ (fun q => clipGrant_claimant _ _) fun distinct q' mem own => ?_
      have held : q ∈ p.queue ∧ q.claimant = a :=
        ⟨List.mem_of_find?_eq_some holds, of_decide_eq_true (List.find?_some (p := fun x : QueueEntry => decide (x.claimant = a)) holds)⟩
      have same : q' = q := List.inj_on_of_nodup_map distinct mem held.1 (own.trans held.2.symm)
      rw [clipGrant_eq_atTier, same]
      exact withinRequest_atTier inList
    next => exact .kept

theorem queueStep_claimRecord (p : ClaimPass) (r : Record) : QueueStep p (claimRecord p r).queue := by
  cases r with
  | claim a round b =>
    rw [claimRecord]
    cases entry : queueEntryOf p.queue a with
    | none => exact queueStep_claimNew ((queueEntryOf_eq_none_iff ..).1 entry) round b
    | some q => exact queueStep_claimHeld p a b
  | yield a tier =>
    rw [claimRecord]
    cases entry : queueEntryOf p.queue a with
    | none => exact .kept
    | some q => exact queueStep_yieldHeld entry tier
  | _ => exact .kept

/-! The laws of the queue through the stage. -/

theorem claimants_changeEntry {f : QueueEntry → QueueEntry} (claimant : ∀ q, (f q).claimant = q.claimant)
    (queue : List QueueEntry) (a : Address) : (changeEntry queue a f).map (·.claimant) = queue.map (·.claimant) := by
  rw [changeEntry, List.map_map]
  refine List.map_congr_left fun q _ => ?_
  rw [Function.comp_apply]
  split
  · exact claimant q
  · rfl

theorem nodup_of_queueStep {p : ClaimPass} {queue : List QueueEntry} (step : QueueStep p queue)
    (distinct : (p.queue.map (·.claimant)).Nodup) : (queue.map (·.claimant)).Nodup := by
  cases step with
  | kept => exact distinct
  | ended a => exact distinct.sublist (List.filter_sublist.map _)
  | changed a f claimant within =>
    rw [claimants_changeEntry claimant]
    exact distinct
  | added a round b able fits room absent =>
    rw [List.map_append, List.map_singleton]
    refine distinct.append (List.nodup_singleton _) (List.disjoint_singleton.2 fun mem => ?_)
    obtain ⟨q, inQueue, own⟩ := List.mem_map.1 mem
    exact absent q inQueue own

theorem length_of_queueStep {p : ClaimPass} {queue : List QueueEntry} (step : QueueStep p queue)
    (few : p.queue.length ≤ 12) : queue.length ≤ 12 := by
  cases step with
  | kept => exact few
  | ended a => exact (List.length_filter_le ..).trans few
  | changed a f claimant within => rwa [changeEntry, List.length_map]
  | added a round b able fits room absent => rwa [List.length_append, List.length_singleton]

/-- Every claimant may hold a contract. -/
def Able (table : List Entry) (queue : List QueueEntry) : Prop := ∀ q ∈ queue, mayHold table q.claimant = true

theorem able_of_queueStep {p : ClaimPass} {queue : List QueueEntry} (step : QueueStep p queue)
    (able : Able p.table p.queue) : Able p.table queue := by
  cases step with
  | kept => exact able
  | ended a => exact fun q mem => able q (List.mem_of_mem_filter mem)
  | changed a f claimant within =>
    intro q mem
    obtain ⟨x, inQueue, rfl⟩ := List.mem_map.1 mem
    split
    · rw [claimant]
      exact able x inQueue
    · exact able x inQueue
  | added a round b isAble fits room absent =>
    intro q mem
    rcases List.mem_append.1 mem with old | new
    · exact able q old
    · rw [List.mem_singleton.1 new]
      exact isAble

theorem grantLaw_of_queueStep {p : ClaimPass} {queue : List QueueEntry} (step : QueueStep p queue)
    (distinct : (p.queue.map (·.claimant)).Nodup) (law : grantLaw p.queue) : grantLaw queue := by
  rw [grantLaw_iff] at law ⊢
  cases step with
  | kept => exact law
  | ended a => exact fun q mem => law q (List.mem_of_mem_filter mem)
  | changed a f claimant within =>
    intro q mem
    obtain ⟨x, inQueue, rfl⟩ := List.mem_map.1 mem
    split
    next own => exact within distinct x inQueue own
    next => exact law x inQueue
  | added a round b able fits room absent =>
    intro q mem
    rcases List.mem_append.1 mem with old | new
    · exact law q old
    · obtain ⟨-, -, -, -, -, -, inList⟩ := fits
      rw [List.mem_singleton.1 new]
      exact ⟨Nat.zero_le _, inList⟩

/-- Last verdicts play no part in who may hold a contract. -/
theorem mayHold_of_onlyVerdicts {t u : List Entry} (h : OnlyVerdicts t u) (a : Address) : mayHold u a = mayHold t a := by
  simp only [mayHold, presence_of_onlyVerdicts h, role_of_onlyVerdicts h]

theorem able_of_onlyVerdicts {t u : List Entry} (h : OnlyVerdicts t u) {queue : List QueueEntry} (able : Able t queue) :
    Able u queue := fun q mem => (mayHold_of_onlyVerdicts h q.claimant).trans (able q mem)

section

variable (journal : List Record) (table : List Entry) {queue : List QueueEntry}

theorem able_claimStage : Able (claimStage journal table queue).table (claimStage journal table queue).queue :=
  List.foldlRecOn (motive := fun p : ClaimPass => Able p.table p.queue) _ _
    (fun _ mem => (List.mem_filter.1 mem).2)
    fun p able r _ => able_of_onlyVerdicts (onlyVerdicts_claimRecord p r) (able_of_queueStep (queueStep_claimRecord p r) able)

theorem nodup_claimStage (distinct : (queue.map (·.claimant)).Nodup) :
    ((claimStage journal table queue).queue.map (·.claimant)).Nodup :=
  List.foldlRecOn (motive := fun p : ClaimPass => (p.queue.map (·.claimant)).Nodup) _ _
    (distinct.sublist (List.filter_sublist.map _))
    fun p held r _ => nodup_of_queueStep (queueStep_claimRecord p r) held

theorem length_claimStage (few : queue.length ≤ 12) : (claimStage journal table queue).queue.length ≤ 12 :=
  List.foldlRecOn (motive := fun p : ClaimPass => p.queue.length ≤ 12) _ _ ((List.length_filter_le ..).trans few)
    fun p held r _ => length_of_queueStep (queueStep_claimRecord p r) held

theorem grantLaw_claimStage (distinct : (queue.map (·.claimant)).Nodup) (law : grantLaw queue) :
    grantLaw (claimStage journal table queue).queue :=
  have both : _ ∧ grantLaw (claimStage journal table queue).queue :=
    List.foldlRecOn (motive := fun p : ClaimPass => (p.queue.map (·.claimant)).Nodup ∧ grantLaw p.queue) _ _
      ⟨distinct.sublist (List.filter_sublist.map _), fun q mem => law q (List.mem_of_mem_filter mem)⟩
      fun p held r _ => ⟨nodup_of_queueStep (queueStep_claimRecord p r) held.1,
        grantLaw_of_queueStep (queueStep_claimRecord p r) held.1 held.2⟩
  both.2

end

/-! The queue through the allocation (R75, R77). -/

theorem claimant_walkEntry (methane gas : Nat) (marked : Word16) (cum : Nat) (q : QueueEntry) :
    (walkEntry methane gas marked cum q).1.claimant = q.claimant := by
  rcases Nat.lt_or_ge methane q.minMethane with short | enough
  · rw [walkEntry_of_methane_short short]
  · rw [walkEntry_of_methane_enough enough]

theorem withinRequest_walkEntry (methane gas : Nat) (marked : Word16) (cum : Nat) {q : QueueEntry} (law : WithinRequest q) :
    WithinRequest (walkEntry methane gas marked cum q).1 := by
  obtain ⟨granted, inList⟩ := law
  rcases Nat.lt_or_ge methane q.minMethane with short | enough
  · rw [walkEntry_of_methane_short short]
    exact ⟨Nat.zero_le _, inList⟩
  · rw [walkEntry_of_methane_enough enough]
    refine ⟨?_, inList⟩
    dsimp only
    split
    · exact granted
    · exact fitTier_le gas cum q q.requested

theorem claimants_grantWalk (methane gas : Nat) (marked : Word16) (cum : Nat) (queue : List QueueEntry) :
    (grantWalk methane gas marked cum queue).1.map (·.claimant) = queue.map (·.claimant) := by
  induction queue generalizing cum with
  | nil => rfl
  | cons q rest ih => rw [grantWalk, List.map_cons, List.map_cons, ih, claimant_walkEntry]

theorem grantLaw_grantWalk (methane gas : Nat) (marked : Word16) (cum : Nat) {queue : List QueueEntry}
    (law : grantLaw queue) : grantLaw (grantWalk methane gas marked cum queue).1 := by
  induction queue generalizing cum with
  | nil => exact fun q mem => absurd mem List.not_mem_nil
  | cons q rest ih =>
    obtain ⟨first, others⟩ := List.forall_mem_cons.1 ((grantLaw_iff _).1 law)
    exact (grantLaw_iff _).2 <| List.forall_mem_cons.2 ⟨withinRequest_walkEntry methane gas marked cum first, ih _ others⟩

theorem allocationStage_queue_of_trip {c : Committed} (trip : c.trips ≠ 0) (marked written : Word16) :
    (allocationStage c marked written).state.queue = c.queue.map tripEntry := by
  rw [allocationStage, if_pos trip]

theorem claimants_allocationStage (c : Committed) (marked written : Word16) :
    (allocationStage c marked written).state.queue.map (·.claimant) = c.queue.map (·.claimant) := by
  by_cases trip : c.trips = 0
  · rw [allocationStage_queue trip]
    exact claimants_grantWalk ..
  · rw [allocationStage_queue_of_trip trip, List.map_map]
    rfl

theorem grantLaw_allocationStage {c : Committed} (law : grantLaw c.queue) (marked written : Word16) :
    grantLaw (allocationStage c marked written).state.queue := by
  by_cases trip : c.trips = 0
  · rw [allocationStage_queue trip]
    exact grantLaw_grantWalk _ _ _ _ law
  · rw [allocationStage_queue_of_trip trip]
    intro q mem
    obtain ⟨x, inQueue, rfl⟩ := List.mem_map.1 mem
    exact ⟨Nat.zero_le _, (law x inQueue).2⟩

/-- Who holds a contract after the claim stage is who holds one after the close. -/
theorem claimants_closeState (c : Committed) (journal : List Record) :
    (closeState c journal).state.queue.map (·.claimant) =
      (claimStage journal (presenceStage journal c.table) c.queue).queue.map (·.claimant) := by
  rw [closeState_eq_allocationStage]
  exact claimants_allocationStage ..

theorem onlyVerdicts_closeState_claims (c : Committed) (journal : List Record) :
    OnlyVerdicts (claimStage journal (presenceStage journal c.table) c.queue).table (closeState c journal).state.table := by
  rw [closeState_eq_allocationStage]
  exact onlyVerdicts_allocationStage (beforeAllocation c journal) _ _

/-- Settles O22: the claim stage keeps the laws of the queue, and the allocation changes no claimant. -/
theorem contractsOfLiveConsumers : Obligations.ContractsOfLiveConsumers := by
  unfold Obligations.ContractsOfLiveConsumers
  intro c journal few distinct after
  let claims := claimStage journal (presenceStage journal c.table) c.queue
  have claimants : after.queue.map (·.claimant) = claims.queue.map (·.claimant) := claimants_closeState c journal
  have length : after.queue.length = claims.queue.length := by simpa using congrArg List.length claimants
  have able : Able after.table claims.queue :=
    able_of_onlyVerdicts (onlyVerdicts_closeState_claims c journal) (able_claimStage journal _)
  refine ⟨length ▸ length_claimStage journal _ few, claimants ▸ nodup_claimStage journal _ distinct, fun q mem => ?_⟩
  have holder : q.claimant ∈ claims.queue.map (·.claimant) := claimants ▸ List.mem_map_of_mem mem
  obtain ⟨x, inQueue, same⟩ := List.mem_map.1 holder
  rw [← same]
  exact of_decide_eq_true (able x inQueue)

/-- Settles O23: the claim stage and the allocation each keep every grant within its request. -/
theorem grantsWithinRequests : Obligations.GrantsWithinRequests := by
  unfold Obligations.GrantsWithinRequests
  intro c journal distinct law
  rw [closeState_eq_allocationStage]
  exact grantLaw_allocationStage (c := beforeAllocation c journal) (grantLaw_claimStage journal _ distinct law) _ _

/-! The grants without a shortfall (R81). -/

/-- The draws of the entries whose shortfall count is 0. -/
def unheldDraw (queue : List QueueEntry) : Nat := grantedDraw (queue.filter fun q => !q.shortfall)

theorem unheldDraw_cons (q : QueueEntry) (rest : List QueueEntry) :
    unheldDraw (q :: rest) = (if q.shortfall = true then 0 else drawOf q q.granted) + unheldDraw rest := by
  cases held : q.shortfall <;> simp [unheldDraw, grantedDraw, held]

/-- A grant that is not held draws nothing, or fits the gas beyond what was granted before it. -/
theorem draw_walkEntry (methane gas : Nat) (marked : Word16) (cum : Nat) (q : QueueEntry) :
    let q' := (walkEntry methane gas marked cum q).1
    q'.shortfall = false → drawOf q' q'.granted = 0 ∨ cum + drawOf q' q'.granted ≤ gas := by
  rcases Nat.lt_or_ge methane q.minMethane with short | enough
  · rw [walkEntry_of_methane_short short]
    exact fun _ => .inl rfl
  · rw [walkEntry_of_methane_enough enough]
    intro q' unheld
    have notHeld : ¬ (fitTier gas cum q q.requested < q.granted ∧ q.shortfall = false) := of_decide_eq_false unheld
    have granted : q'.granted = fitTier gas cum q q.requested := if_neg notHeld
    rw [granted, show drawOf q' = drawOf q from rfl]
    rcases fitTier_zero_or_fits gas cum q q.requested with zero | fits
    · exact .inl (by rw [zero]; rfl)
    · exact .inr fits

theorem unheldDraw_grantWalk (methane gas : Nat) (marked : Word16) (cum : Nat) (queue : List QueueEntry) :
    let walked := (grantWalk methane gas marked cum queue).1
    unheldDraw walked = 0 ∨ cum + unheldDraw walked ≤ gas := by
  induction queue generalizing cum with
  | nil => exact .inl rfl
  | cons q rest ih =>
    have first := draw_walkEntry methane gas marked cum q
    have total := walkEntry_total methane gas cum marked q
    have others := ih (walkEntry methane gas marked cum q).2.1
    dsimp only at first total others ⊢
    rw [grantWalk, unheldDraw_cons]
    rw [total] at others ⊢
    cases held : (walkEntry methane gas marked cum q).1.shortfall with
    | true => rw [if_pos rfl]; omega
    | false =>
      have fits := first held
      rw [if_neg Bool.false_ne_true]
      omega

theorem unheldDraw_of_trip (queue : List QueueEntry) : unheldDraw (queue.map tripEntry) = 0 := by
  induction queue with
  | nil => rfl
  | cons q rest ih =>
    rw [List.map_cons, unheldDraw_cons, ih]
    rfl

/-- Settles O26: of a trip close no grant is left; otherwise each grant of the walk that is not held fits the gas. -/
theorem unheldGrantsFitTheGas : Obligations.UnheldGrantsFitTheGas := by
  unfold Obligations.UnheldGrantsFitTheGas
  intro c journal after
  change unheldDraw after.queue ≤ availableGas after.table
  have verdicts := onlyVerdicts_closeState_claims c journal
  rw [availableGas_of_onlyVerdicts verdicts]
  by_cases trip : (beforeAllocation c journal).trips = 0
  · have queue : after.queue = _ := allocationStage_queue trip _ _
    rcases unheldDraw_grantWalk _ _ _ _ _ with none_drawn | fits
    · rw [queue, walkOf, none_drawn]
      exact Nat.zero_le _
    · rw [queue, walkOf]
      exact (Nat.zero_add _).symm.trans_le fits
  · have queue : after.queue = _ := allocationStage_queue_of_trip trip _ _
    rw [queue, unheldDraw_of_trip]
    exact Nat.zero_le _

/-! The trip close (R75). -/

/-- What is placed and what is left unburnt make up the target. -/
theorem placeBurn_total (target : Nat) (order : List (Address × Nat)) :
    ((placeBurn target order).1.map (·.2)).sum + (placeBurn target order).2 = target := by
  induction order generalizing target with
  | nil => exact Nat.zero_add target
  | cons p more ih =>
    have rest := ih (target - min target p.2)
    rw [placeBurn, List.map_cons, List.sum_cons]
    dsimp only
    omega

/-- Settles O27: the allocation of a set that is not empty, and its placement of the production. -/
theorem tripCloseSuppresses : Obligations.TripCloseSuppresses := by
  unfold Obligations.TripCloseSuppresses
  intro c journal r claims tripped
  have trip : (beforeAllocation c journal).trips ≠ 0 := closeState_trips c journal ▸ tripped
  have stage : r = allocationStage (beforeAllocation c journal) claims.marked claims.written :=
    closeState_eq_allocationStage c journal
  have placed := closeState_placement c journal
  obtain ⟨burns, unburnt⟩ := Prod.mk.inj placed
  refine ⟨?_, ?_, ?_, closeState_flaring_of_trip tripped, ?_⟩
  · rw [stage, allocationStage_queue_of_trip trip]
    rfl
  · rw [stage, allocationStage, if_pos trip]
    rfl
  · rw [stage, allocationStage, if_pos trip]
  · rw [burns, unburnt, ← burnTarget_of_trip tripped r.state.table r.state.flaring (grantedDraw r.state.queue)]
    exact placeBurn_total ..

end Sys2Proof.Contracts
end

section
/-! SUPPORT. The stages of a close that read the records one by one: the trip set (R74), the lead flare duty (R90 to R93),
the tally (R101 to R103) and the choice of a server (R106). -/

namespace Sys2Proof.Stages

open Sys2Proof.Machine Sys2Proof.Safety
open Sys2Proof.Stations hiding presenceTable
open Sys2Proof.Gas hiding availableGas
open Sys2Proof.Grants hiding grantRule
open Sys2Proof.Burn hiding flaringFlag burnPlacement
open Sys2Proof.Contracts hiding claimOfHolder contractsOfLiveConsumers grantsWithinRequests unheldGrantsFitTheGas
  tripCloseSuppresses

/-! The first element that passes a test, in an ascending list. -/

theorem find?_lowest {α : Type} {f : α → Address} {l : List α} (ascends : l.Pairwise fun x y => f x < f y) {p : α → Bool}
    {x y : α} (found : l.find? p = some x) (mem : y ∈ l) (passes : p y = true) : f x ≤ f y := by
  obtain ⟨-, before, behind, rfl, fails⟩ := List.find?_eq_some_iff_append.1 found
  rcases List.mem_append.1 mem with early | later
  · exact absurd passes (by simpa using fails y early)
  · rcases List.mem_cons.1 later with rfl | late
    · exact le_refl _
    · obtain ⟨-, tail, -⟩ := List.pairwise_append.1 ascends
      exact le_of_lt (List.rel_of_pairwise_cons tail late)

/-! Sets of stations. -/

theorem getLsbD_bitWord (a b : Address) : (bitWord a.val).getLsbD b.val = decide (b = a) := by
  have aLt := a.isLt
  have bLt := b.isLt
  unfold bitWord
  rw [BitVec.getLsbD_shiftLeft, BitVec.getLsbD_one]
  by_cases same : b = a
  · simp [same]
  · have other : b.val ≠ a.val := fun eq => same (Fin.ext eq)
    have apart : ¬ b.val - a.val = 0 ∨ b.val < a.val := by omega
    rcases apart with above | below
    · simp [same, above]
    · simp [same, below]

theorem getLsbD_withStation (set : Word16) (a b : Address) :
    (withStation set a).getLsbD b.val = true ↔ set.getLsbD b.val = true ∨ b = a := by
  rw [withStation, BitVec.getLsbD_or, getLsbD_bitWord, Bool.or_eq_true, decide_eq_true_eq]

theorem getLsbD_withoutStation (set : Word16) (a b : Address) :
    (withoutStation set a).getLsbD b.val = true ↔ set.getLsbD b.val = true ∧ b ≠ a := by
  have within : b.val < 16 := b.isLt
  rw [withoutStation, BitVec.getLsbD_and, BitVec.getLsbD_not, getLsbD_bitWord, Bool.and_eq_true]
  simp [within]

/-! Records that announce, and those passed over. -/

theorem announcedBy_isSome_iff (a : Address) (r : Record) :
    (announcedBy a r).isSome = true ↔ ∃ role, r = .announce a role := by
  cases r with
  | announce b role =>
    by_cases same : b = a
    · simp [announcedBy, same]
    · simp [announcedBy, same]
  | _ => simp [announcedBy]

theorem announcedIn_eq_true_iff (journal : List Record) (a : Address) :
    announcedIn journal a = true ↔ ∃ role, Record.announce a role ∈ journal := by
  rw [announcedIn, List.any_eq_true]
  constructor
  · rintro ⟨r, mem, announces⟩
    obtain ⟨role, rfl⟩ := (announcedBy_isSome_iff a r).1 announces
    exact ⟨role, mem⟩
  · rintro ⟨role, mem⟩
    exact ⟨_, mem, (announcedBy_isSome_iff a _).2 ⟨role, rfl⟩⟩

/-- The sender of the record announces behind it. -/
def passedOver (r : Record) (rest : List Record) : Prop := ∃ a role, recordSender r = some a ∧ Record.announce a role ∈ rest

theorem afterAnnounce_of_passedOver {r : Record} {rest : List Record} (passed : passedOver r rest) :
    afterAnnounce (r :: rest) = afterAnnounce rest := by
  obtain ⟨a, role, sender, announces⟩ := passed
  rw [afterAnnounce, sender]
  exact if_pos ((announcedIn_eq_true_iff rest a).2 ⟨role, announces⟩)

theorem afterAnnounce_of_not_passedOver {r : Record} {rest : List Record} (stands : ¬ passedOver r rest) :
    afterAnnounce (r :: rest) = r :: afterAnnounce rest := by
  rw [afterAnnounce]
  cases sender : recordSender r with
  | none => rfl
  | some a =>
    refine if_neg fun announced => stands ?_
    obtain ⟨role, announces⟩ := (announcedIn_eq_true_iff rest a).1 announced
    exact ⟨a, role, sender, announces⟩

/-! The trip set (R74). -/

theorem clearApplies_eq_true_iff (table : List Entry) (a b : Address) :
    clearApplies table a b = true ↔ a = b ∨ (entryOf table b).presence = .lost ∨ (entryOf table b).presence = .absent :=
  decide_eq_true_iff

/-- No CLEAR that applies to the station stands in the records. -/
def Uncleared (table : List Entry) (b : Address) (records : List Record) : Prop :=
  ∀ a, clearApplies table a b = true → Record.clear a b ∉ records

theorem uncleared_cons_iff (table : List Entry) (b : Address) (r : Record) (rest : List Record) :
    Uncleared table b (r :: rest) ↔ Uncleared table b [r] ∧ Uncleared table b rest := by
  simp only [Uncleared, List.mem_cons, List.not_mem_nil, or_false, not_or, forall_and]

/-- One record sets the bit of a station by a TRIP of its own, and clears it by a CLEAR that applies. -/
theorem getLsbD_tripRecord (table : List Entry) (trips : Word16) (b : Address) (r : Record) :
    (tripRecord table trips r).getLsbD b.val = true ↔
      r = .trip b ∨ trips.getLsbD b.val = true ∧ Uncleared table b [r] := by
  cases r with
  | trip a =>
    rw [tripRecord, getLsbD_withStation]
    have never : Uncleared table b [.trip a] := fun _ _ mem => by simp at mem
    rw [and_iff_left never, or_comm, Record.trip.injEq, eq_comm]
  | clear a target =>
    rw [tripRecord]
    by_cases applies : clearApplies table a target = true
    · rw [if_pos applies, getLsbD_withoutStation]
      simp only [Uncleared, List.mem_singleton, Record.clear.injEq, not_and, reduceCtorEq, false_or]
      refine and_congr_right fun _ => ⟨fun other x xApplies same own => other own, fun free own => ?_⟩
      exact free a (own ▸ applies) rfl own
    · rw [if_neg applies]
      simp only [Uncleared, List.mem_singleton, Record.clear.injEq, not_and, reduceCtorEq, false_or]
      refine (and_iff_left fun x xApplies same own => applies ?_).symm
      rw [← same, ← own]
      exact xApplies
  | _ => simp [tripRecord, Uncleared]

theorem exists_split_cons_iff {α : Type} (x r : α) (rest : List α) (P : List α → Prop) :
    (∃ ahead behind, r :: rest = ahead ++ x :: behind ∧ P behind) ↔
      r = x ∧ P rest ∨ ∃ ahead behind, rest = ahead ++ x :: behind ∧ P behind := by
  constructor
  · rintro ⟨ahead, behind, split, holds⟩
    cases ahead with
    | nil =>
      obtain ⟨rfl, rfl⟩ := List.cons.inj split
      exact .inl ⟨rfl, holds⟩
    | cons y ahead => exact .inr ⟨ahead, behind, (List.cons.inj split).2, holds⟩
  · rintro (⟨rfl, holds⟩ | ⟨ahead, behind, rfl, holds⟩)
    · exact ⟨[], rest, rfl, holds⟩
    · exact ⟨r :: ahead, behind, rfl, holds⟩

/-- The bit of a station after the records: its last TRIP stands uncleared, or it was set and nothing cleared it. -/
theorem getLsbD_foldl_tripRecord (table : List Entry) (b : Address) (records : List Record) (trips : Word16) :
    (records.foldl (tripRecord table) trips).getLsbD b.val = true ↔
      (∃ ahead behind, records = ahead ++ .trip b :: behind ∧ Uncleared table b behind) ∨
        trips.getLsbD b.val = true ∧ Uncleared table b records := by
  induction records generalizing trips with
  | nil => simp [Uncleared]
  | cons r rest ih =>
    rw [List.foldl_cons, ih, getLsbD_tripRecord, exists_split_cons_iff, uncleared_cons_iff table b r rest,
      or_and_right, and_assoc, ← or_assoc]
    exact or_congr or_comm Iff.rfl

/-- The first pass: the stations that announced leave the set. -/
theorem getLsbD_withoutAnnounced (journal : List Record) (trips : Word16) (b : Address) :
    (withoutAnnounced journal trips).getLsbD b.val = true ↔
      trips.getLsbD b.val = true ∧ announcedIn journal b = false := by
  have pass : ∀ (l : List Address) (t : Word16),
      (l.foldl (fun t a => if announcedIn journal a then withoutStation t a else t) t).getLsbD b.val = true ↔
        t.getLsbD b.val = true ∧ ¬ (b ∈ l ∧ announcedIn journal b = true) := by
    intro l
    induction l with
    | nil => simp
    | cons a rest ih =>
      intro t
      rw [List.foldl_cons, ih]
      by_cases announced : announcedIn journal a = true
      · rw [if_pos announced, getLsbD_withoutStation]
        by_cases same : b = a
        · simp [same, announced]
        · simp [same]
      · rw [if_neg announced]
        by_cases same : b = a
        · simp [same, announced]
        · simp [same]
  rw [withoutAnnounced, pass]
  simp [mem_addresses]

/-- Last verdicts play no part in the trip set. -/
theorem tripStage_of_onlyVerdicts {t u : List Entry} (h : OnlyVerdicts t u) (journal : List Record) (trips : Word16) :
    tripStage journal u trips = tripStage journal t trips := by
  have applies : clearApplies u = clearApplies t := by
    funext a b
    simp only [clearApplies, presence_of_onlyVerdicts h]
  have records : tripRecord u = tripRecord t := by
    funext set r
    cases r with
    | clear a target => rw [tripRecord, tripRecord, applies]
    | _ => rfl
  rw [tripStage, tripStage, records]

/-- Settles O28: the table the stage reads, the two passes bit by bit, and the records passed over. -/
theorem tripSetRecords : Obligations.TripSetRecords := by
  unfold Obligations.TripSetRecords
  refine ⟨fun c journal => ?_, ?_, rfl, fun r rest =>
    ⟨afterAnnounce_of_passedOver, afterAnnounce_of_not_passedOver⟩⟩
  · rw [closeState_trips]
    exact tripStage_of_onlyVerdicts (onlyVerdicts_claimStage _ _ _) ..
  · intro journal table trips b applies
    have uncleared : ∀ records, Uncleared table b records ↔ ∀ a, applies a → Record.clear a b ∉ records := fun records => by
      simp only [Uncleared, clearApplies_eq_true_iff]
      rfl
    have unannounced : announcedIn journal b = false ↔ ∀ role, Record.announce b role ∉ journal := by
      rw [← Bool.not_eq_true, announcedIn_eq_true_iff, not_exists]
    rw [tripStage, getLsbD_foldl_tripRecord, getLsbD_withoutAnnounced, unannounced, and_assoc]
    simp only [uncleared]

/-! The lead flare duty (R90 to R93). -/

/-- A station that may hold the duty (R89). -/
def MayLead (table : List Entry) (a : Address) : Prop :=
  (entryOf table a).presence = .live ∧ (entryOf table a).role = some .flare ∧ 0 < burnCapacity (entryOf table a) ∧
    (entryOf table a).dutyAllowed = true

theorem candidate_eq_true_iff (table : List Entry) (a : Address) :
    candidate (entryOf table a) = true ↔ MayLead table a := by
  rw [candidate, Bool.and_eq_true, eligible_eq_true_iff, and_assoc, and_assoc]
  rfl

/-- The lowest of the counted stations that may hold the duty, none where there is none. -/
def LowestLeader (table : List Entry) (counted : Address → Prop) (o : Option Address) : Prop :=
  (∀ a ∈ o, counted a ∧ MayLead table a) ∧ ∀ a, counted a → MayLead table a → ∃ b ∈ o, b ≤ a

theorem lowestLeader_lowestCandidate (table : List Entry) {counted : Address → Prop} {test : Address → Bool}
    (tests : ∀ a, test a = true ↔ counted a) : LowestLeader table counted (lowestCandidate table test) := by
  have passes : ∀ a, (test a && candidate (entryOf table a)) = true ↔ counted a ∧ MayLead table a := fun a => by
    rw [Bool.and_eq_true, tests, candidate_eq_true_iff]
  refine ⟨fun a mem => (passes a).1 (List.find?_some (p := fun x => test x && candidate (entryOf table x)) mem), fun a isCounted may => ?_⟩
  have passing := (passes a).2 ⟨isCounted, may⟩
  cases found : lowestCandidate table test with
  | none => exact absurd passing (List.find?_eq_none.1 found a (mem_addresses a))
  | some b => exact ⟨b, rfl, find?_lowest (f := id) pairwise_addresses found (mem_addresses a) passing⟩

/-- The offer walk passes a record that does nothing over. -/
theorem offerWalk_cons_of_idle {table : List Entry} {d : DutyState} {r : Record}
    (noOffer : ∀ a, r = .duty a .offer ∨ r = .duty a .withdraw → d.duty ≠ some a)
    (noTake : ∀ a, r = .duty a .take → ¬ (d.offer = true ∧ d.duty ≠ some a ∧ MayLead table a)) (rest : List Record) :
    offerWalk table d (r :: rest) = offerWalk table d rest := by
  cases r with
  | duty a action =>
    cases action with
    | offer => rw [offerWalk, if_neg (noOffer a (.inl rfl))]
    | withdraw => rw [offerWalk, if_neg (noOffer a (.inr rfl))]
    | take =>
      rw [offerWalk, if_neg fun applies => noTake a rfl ?_]
      rwa [candidate_eq_true_iff] at applies
  | _ => rfl

theorem transferDuty_of_holder {opening table : List Entry} {d : DutyState} {a : Address} (holder : d.duty = some a) :
    transferDuty opening table d =
      if burnCapacity (entryOf opening a) = 0 ∧ burnCapacity (entryOf table a) = 0 then
        { duty := lowestCandidate table fun b => decide (b ≠ a), offer := false }
      else d := by
  rw [transferDuty, holder]

theorem transferDuty_of_capacity {opening table : List Entry} {d : DutyState}
    (capacity : ∀ a, d.duty = some a → ¬ (burnCapacity (entryOf opening a) = 0 ∧ burnCapacity (entryOf table a) = 0)) :
    transferDuty opening table d = d := by
  cases holder : d.duty with
  | none => rw [transferDuty, holder]
  | some a => rw [transferDuty_of_holder holder, if_neg (capacity a holder)]

theorem fillDuty_of_vacancy {d : DutyState} (vacant : d.duty = none) (table : List Entry) :
    fillDuty table d = { duty := lowestCandidate table fun _ => true, offer := false } := by
  rw [fillDuty, vacant]

theorem fillDuty_of_holder {d : DutyState} (held : d.duty ≠ none) (table : List Entry) : fillDuty table d = d := by
  cases holder : d.duty with
  | none => exact absurd holder held
  | some a => rw [fillDuty, holder]

/-! The duty names a LIVE FLARE after the stage (R88, R93). -/

/-- The duty field is vacant or names a LIVE station. -/
def HolderLive (table : List Entry) (d : DutyState) : Prop := ∀ a, d.duty = some a → (entryOf table a).presence = .live

theorem holderLive_vacateDuty (table : List Entry) (d : DutyState) : HolderLive table (vacateDuty table d) := by
  intro a holder
  cases duty : d.duty with
  | none =>
    have same : vacateDuty table d = d := by rw [vacateDuty, duty]
    rw [same, duty] at holder
    exact absurd holder (by simp)
  | some b =>
    have step : vacateDuty table d = if (entryOf table b).presence = .live then d else { duty := none, offer := false } := by
      rw [vacateDuty, duty]
    rw [step] at holder
    split at holder
    next live =>
      rw [duty] at holder
      exact Option.some.inj holder ▸ live
    next => exact absurd holder (by simp)

theorem holderLive_offerWalk {table : List Entry} (records : List Record) {d : DutyState} (live : HolderLive table d) :
    HolderLive table (offerWalk table d records) := by
  induction records generalizing d with
  | nil => exact live
  | cons r rest ih =>
    cases r with
    | duty a action =>
      cases action with
      | offer =>
        rw [offerWalk]
        refine ih ?_
        split
        · exact live
        · exact live
      | withdraw =>
        rw [offerWalk]
        refine ih ?_
        split
        · exact live
        · exact live
      | take =>
        rw [offerWalk]
        split
        next applies =>
          intro b holder
          obtain ⟨isLive, -⟩ := (candidate_eq_true_iff table a).1 applies.2.2
          exact Option.some.inj holder ▸ isLive
        next => exact ih live
    | _ => exact ih live

/-- R5's step leads to LIVE from LIVE, and from JOINING with a heard count above 0. -/
theorem presenceStep_live {e : Entry} {counted : Bool} (live : (presenceStep e counted).1 = .live) :
    e.presence = .live ∨ e.presence = .joining ∧ e.heard ≠ 0 := by
  unfold presenceStep at live
  cases presence : e.presence with
  | live => exact .inl rfl
  | joining =>
    cases counted with
    | false => exact absurd live (by simp [presence])
    | true =>
      refine .inr ⟨rfl, fun first => ?_⟩
      exact absurd live (by simp [presence, first])
  | absent => cases counted <;> exact absurd live (by simp [presence])
  | lost => cases counted <;> exact absurd live (by simp [presence])

/-- An entry that the counted records leave LIVE keeps its role. -/
theorem role_entryAfterCounted {e : Entry} {bodies : List StatusBody}
    (live : (entryAfterCounted e (countedStatuses e bodies)).presence = .live) :
    (entryAfterCounted e (countedStatuses e bodies)).role = e.role ∧
      (e.presence = .live ∨ e.presence = .joining ∧ e.heard ≠ 0) := by
  cases last : (countedStatuses e bodies).getLast? with
  | none =>
    rw [entryAfterCounted, last] at live ⊢
    exact ⟨rfl, presenceStep_live (counted := false) live⟩
  | some b =>
    rw [entryAfterCounted, last] at live ⊢
    have before := presenceStep_live (counted := true) live
    refine ⟨?_, before⟩
    have mem := List.mem_of_getLast? last
    cases bodies with
    | nil => exact absurd mem List.not_mem_nil
    | cons first rest =>
      have counted : some b.role = countedRole e first := of_decide_eq_true (List.mem_filter.1 mem).2
      have own : countedRole e first = e.role := by
        rcases before with isLive | ⟨joining, -⟩
        · rw [countedRole, isLive]
        · rw [countedRole, joining]
      exact counted.trans own

/-- A station that is LIVE after the presence stage has the role it had before. -/
theorem role_of_live_presenceStage {journal : List Record} {table : List Entry} {a : Address}
    (live : (entryOf (presenceStage journal table) a).presence = .live) :
    (entryOf (presenceStage journal table) a).role = (entryOf table a).role := by
  rw [entryOf_presenceStage] at live ⊢
  cases announced : lastAnnounced journal a with
  | some role =>
    have opened : presenceEntry journal a (entryOf table a) =
        entryAfterCounted (announcedEntry role) (countedStatuses (announcedEntry role) (statusesOf (afterAnnounce journal) a)) := by
      rw [presenceEntry, announced]
      rfl
    rw [opened] at live
    obtain ⟨-, isLive | ⟨-, heard⟩⟩ := role_entryAfterCounted live
    · exact absurd isLive (by simp [announcedEntry])
    · exact absurd rfl heard
  | none =>
    have opened : presenceEntry journal a (entryOf table a) =
        entryAfterCounted (entryOf table a) (countedStatuses (entryOf table a) (statusesOf (afterAnnounce journal) a)) := by
      rw [presenceEntry, announced]
      rfl
    rw [opened] at live ⊢
    exact (role_entryAfterCounted live).1

/-- After the transfer a holder that was LIVE is a LIVE FLARE. -/
theorem live_flare_transferDuty {opening table : List Entry} {d : DutyState}
    (roles : ∀ a, (entryOf table a).presence = .live → (entryOf table a).role = (entryOf opening a).role)
    (live : HolderLive table d) {a : Address} (holder : (transferDuty opening table d).duty = some a) :
    (entryOf table a).presence = .live ∧ (entryOf table a).role = some .flare := by
  cases duty : d.duty with
  | none =>
    have same : transferDuty opening table d = d := by rw [transferDuty, duty]
    rw [same, duty] at holder
    exact absurd holder (by simp)
  | some b =>
    rw [transferDuty_of_holder duty] at holder
    split at holder
    next =>
      obtain ⟨leads, -⟩ := lowestLeader_lowestCandidate table (counted := fun x => x ≠ b) (fun x => decide_eq_true_iff)
      obtain ⟨-, isLive, flare, -⟩ := leads a holder
      exact ⟨isLive, flare⟩
    next capacity =>
      have own : a = b := Option.some.inj (holder.symm.trans duty)
      have isLive := live a (own ▸ duty)
      refine ⟨isLive, by_contra fun notFlare => capacity ⟨?_, ?_⟩⟩
      · rw [← own]
        exact if_neg fun flare => notFlare ((roles a isLive).trans flare)
      · rw [← own]
        exact if_neg notFlare

theorem live_flare_fillDuty {table : List Entry} {d : DutyState}
    (held : ∀ a, d.duty = some a → (entryOf table a).presence = .live ∧ (entryOf table a).role = some .flare) {a : Address}
    (holder : (fillDuty table d).duty = some a) :
    (entryOf table a).presence = .live ∧ (entryOf table a).role = some .flare := by
  cases duty : d.duty with
  | none =>
    rw [fillDuty_of_vacancy duty] at holder
    obtain ⟨leads, -⟩ := lowestLeader_lowestCandidate table (counted := fun _ => True) (test := fun _ => true) (by simp)
    obtain ⟨-, isLive, flare, -⟩ := leads a holder
    exact ⟨isLive, flare⟩
  | some b =>
    rw [fillDuty_of_holder (by rw [duty]; simp)] at holder
    exact held a holder

/-- An open offer has a holder after the stage. -/
theorem offer_fillDuty (table : List Entry) (d : DutyState) :
    (fillDuty table d).offer = true → (fillDuty table d).duty ≠ none := by
  cases duty : d.duty with
  | none =>
    rw [fillDuty_of_vacancy duty]
    exact fun offer => absurd offer Bool.false_ne_true
  | some b =>
    rw [fillDuty_of_holder (by rw [duty]; simp), duty]
    simp

theorem allocationStage_duty (c : Committed) (marked written : Word16) :
    (allocationStage c marked written).state.duty = c.duty ∧ (allocationStage c marked written).state.offer = c.offer := by
  unfold allocationStage
  split
  · exact ⟨rfl, rfl⟩
  · exact ⟨rfl, rfl⟩

/-- Settles O31: the duty the close leaves and its law, then each of the four steps. -/
theorem leadDutySteps : Obligations.LeadDutySteps := by
  unfold Obligations.LeadDutySteps
  refine ⟨fun c journal => ?close, ?steps⟩
  case close =>
    intro after table d
    obtain ⟨duty, offer⟩ : after.duty = d.duty ∧ after.offer = d.offer :=
      allocationStage_duty (beforeAllocation c journal) _ _
    have claims : OnlyVerdicts (presenceStage journal c.table) table := onlyVerdicts_claimStage journal _ c.queue
    have verdicts : OnlyVerdicts table after.table := onlyVerdicts_closeState_claims c journal
    have roles : ∀ a, (entryOf table a).presence = .live → (entryOf table a).role = (entryOf c.table a).role := fun a live => by
      rw [presence_of_onlyVerdicts claims] at live
      rw [role_of_onlyVerdicts claims, role_of_live_presenceStage live]
    refine ⟨duty, offer, fun a holder => ?_, fun isOpen => ?_⟩
    · rw [presence_of_onlyVerdicts verdicts, role_of_onlyVerdicts verdicts]
      rw [duty] at holder
      exact live_flare_fillDuty
        (fun b => live_flare_transferDuty roles (holderLive_offerWalk _ (holderLive_vacateDuty _ _))) holder
    · rw [offer] at isOpen
      rw [duty]
      exact offer_fillDuty table _ isOpen
  case steps =>
    intro opening table d mayHold lowest
    refine ⟨fun a holder gone => ?_, fun live => ?_, rfl, fun a rest holder => ⟨?_, ?_⟩, fun a rest offered other may => ?_,
      fun r rest noOffer noTake => offerWalk_cons_of_idle noOffer noTake rest, fun a holder before behind => ?_,
      fun capacity => transferDuty_of_capacity capacity, fun held => fillDuty_of_holder held table, fun vacant => ?_⟩
    · rw [vacateDuty, holder]
      exact if_neg gone
    · cases holder : d.duty with
      | none => rw [vacateDuty, holder]
      | some a =>
        rw [vacateDuty, holder]
        exact if_pos (live a holder)
    · rw [offerWalk, if_pos holder]
    · rw [offerWalk, if_pos holder]
    · rw [offerWalk, if_pos ⟨offered, other, (candidate_eq_true_iff table a).2 may⟩]
    · rw [transferDuty_of_holder holder, if_pos ⟨before, behind⟩]
      exact ⟨rfl, lowestLeader_lowestCandidate table (counted := fun b => b ≠ a) fun b => decide_eq_true_iff⟩
    · rw [fillDuty_of_vacancy vacant]
      exact ⟨rfl, lowestLeader_lowestCandidate table (counted := fun _ => True) (test := fun _ => true) fun b => by simp⟩

/-! The tally (R101 to R103) and the choice of a server (R106). -/

/-- The digest of the last STATUS of a station. -/
def lastDigest (journal : List Record) (a : Address) : Option Word16 := (statusesOf journal a).getLast?.map (·.digest)

theorem lastDigests_eq (counted : Address → Bool) (journal : List Record) :
    lastDigests counted journal = addresses.filterMap fun a =>
      if counted a = true then (lastDigest journal a).map fun d => (a, d) else none := by
  unfold lastDigests lastDigest
  simp only [Option.map_map, Function.comp_def]

/-- The senders of the digests that pass a test. -/
theorem map_filter_lastDigests (counted : Address → Bool) (journal : List Record) (test : Word16 → Bool) :
    ((lastDigests counted journal).filter fun p => test p.2).map (·.1) =
      addresses.filter fun a => counted a && (lastDigest journal a).any test := by
  rw [lastDigests_eq]
  induction addresses with
  | nil => rfl
  | cons a rest ih =>
    cases isCounted : counted a with
    | false => simp [isCounted, ih]
    | true =>
      cases digest : lastDigest journal a with
      | none => simp [isCounted, digest, ih]
      | some d => cases passes : test d <;> simp [isCounted, digest, passes, ih]

theorem pairwise_lastDigests (counted : Address → Bool) (journal : List Record) :
    (lastDigests counted journal).Pairwise fun p q => p.1 < q.1 := by
  have all := map_filter_lastDigests counted journal fun _ => true
  rw [List.filter_true] at all
  rw [← List.pairwise_map (f := Prod.fst), all]
  exact pairwise_addresses.filter _

/-- The agreeing count and the differing senders of a tally, ascending (R101). -/
theorem tallyOf_eq (own : Address) (opening : Word16) (journal : List Record) :
    (tallyOf own opening journal).agreeing =
        1 + (addresses.filter fun a => decide (a ≠ own ∧ lastDigest journal a = some opening)).length ∧
      (tallyOf own opening journal).differing.map (·.1) =
        addresses.filter fun a => decide (a ≠ own ∧ lastDigest journal a ≠ none ∧ lastDigest journal a ≠ some opening) := by
  constructor
  · have senders := map_filter_lastDigests (fun a => decide (a ≠ own)) journal fun d => decide (d = opening)
    rw [tallyOf, ← List.length_map (f := Prod.fst), senders]
    refine congrArg (fun l => 1 + List.length l) (List.filter_congr fun a _ => ?_)
    cases digest : lastDigest journal a <;> simp
  · rw [tallyOf, map_filter_lastDigests (fun a => decide (a ≠ own)) journal fun d => decide (d ≠ opening)]
    refine List.filter_congr fun a _ => ?_
    cases digest : lastDigest journal a <;> simp

/-- Of an ascending list of senders one is below the node's address if the first is. -/
theorem exists_lt_iff_head {l : List Address} (ascends : l.Pairwise (· < ·)) (own : Address) :
    (∃ a ∈ l, a < own) ↔ ∃ a rest, l = a :: rest ∧ a < own := by
  cases l with
  | nil => simp
  | cons first rest =>
    constructor
    · rintro ⟨a, mem, below⟩
      refine ⟨first, rest, rfl, ?_⟩
      rcases List.mem_cons.1 mem with rfl | late
      · exact below
      · exact lt_trans (List.rel_of_pairwise_cons ascends late) below
    · rintro ⟨a, others, same, below⟩
      exact ⟨a, same ▸ List.mem_cons_self, below⟩

theorem tallyDiverges_eq_true_iff (own : Address) (t : Tally) :
    tallyDiverges own t = true ↔ t.agreeing < t.differing.length ∨
      t.agreeing = t.differing.length ∧ ∃ a rest, t.differing.map (·.1) = a :: rest ∧ a < own := by
  unfold tallyDiverges
  cases differing : t.differing with
  | nil => simp
  | cons p rest =>
    rw [Bool.or_eq_true, decide_eq_true_iff, Bool.and_eq_true, beq_iff_eq, decide_eq_true_iff, List.map_cons]
    refine or_congr Iff.rfl (and_congr eq_comm ⟨fun below => ⟨_, _, rfl, below⟩, ?_⟩)
    rintro ⟨a, others, same, below⟩
    exact (List.cons.inj same).1 ▸ below

theorem tallyAgrees_eq_true_iff (t : Tally) : tallyAgrees t = true ↔ t.differing = [] ∧ 2 ≤ t.agreeing := by
  rw [tallyAgrees, Bool.and_eq_true, List.isEmpty_iff, decide_eq_true_iff]

theorem joinAfterTally_joined (own : Address) (t : Tally) :
    joinAfterTally own .joined t = if tallyDiverges own t = true then .diverged else .joined := rfl

theorem joinAfterTally_diverged (own : Address) (t : Tally) :
    joinAfterTally own .diverged t = if tallyAgrees t = true then .joined else .diverged := rfl

/-- Settles O33: the two counts of the tally, and the join state on each side. -/
theorem tallyDecides : Obligations.TallyDecides := by
  unfold Obligations.TallyDecides
  intro own opening journal digest agreeing differing t
  obtain ⟨agrees, differs⟩ := tallyOf_eq own opening journal
  have count : t.agreeing = agreeing := agrees
  have senders : t.differing.map (·.1) = differing := differs
  have length : t.differing.length = differing.length := by rw [← senders, List.length_map]
  have empty : t.differing = [] ↔ differing = [] := by rw [← senders, List.map_eq_nil_iff]
  have diverges : tallyDiverges own t = true ↔
      agreeing < differing.length ∨ agreeing = differing.length ∧ ∃ a ∈ differing, a < own := by
    rw [tallyDiverges_eq_true_iff, count, length, senders, exists_lt_iff_head (pairwise_addresses.filter _)]
  have returns : tallyAgrees t = true ↔ differing = [] ∧ 2 ≤ agreeing := by rw [tallyAgrees_eq_true_iff, empty, count]
  refine ⟨?_, (ite_eq_or_eq ..).symm, ?_, ite_eq_or_eq ..⟩
  · rw [← diverges, joinAfterTally_joined]
    exact ite_eq_left_iff.trans ⟨fun only => by_contra fun h => absurd (only h) (by decide), fun h not => absurd h not⟩
  · rw [← returns, joinAfterTally_diverged]
    exact ite_eq_left_iff.trans ⟨fun only => by_contra fun h => absurd (only h) (by decide), fun h not => absurd h not⟩

/-- No digest is carried by more senders than this one's. -/
def unbeaten (heard : List (Address × Word16)) (p : Address × Word16) : Bool :=
  heard.all fun q => decide (digestCount heard q.2 ≤ digestCount heard p.2)

theorem unbeaten_eq_true_iff (heard : List (Address × Word16)) (p : Address × Word16) :
    unbeaten heard p = true ↔ ∀ q ∈ heard, digestCount heard q.2 ≤ digestCount heard p.2 := by
  simp only [unbeaten, List.all_eq_true, decide_eq_true_eq]

theorem chooseServer_eq (heard : List (Address × Word16)) :
    chooseServer heard = (heard.find? (unbeaten heard)).map (·.1) := rfl

theorem exists_unbeaten {heard : List (Address × Word16)} (someone : heard ≠ []) :
    ∃ p ∈ heard, unbeaten heard p = true := by
  obtain ⟨p, mem, top⟩ := Finset.exists_max_image heard.toFinset (fun p => digestCount heard p.2)
    ((List.toFinset_nonempty_iff heard).2 someone)
  exact ⟨p, List.mem_toFinset.1 mem,
    (unbeaten_eq_true_iff heard p).2 fun q among => top q (List.mem_toFinset.2 among)⟩

/-- Settles O34: of ascending senders the first whose digest none outnumbers. -/
theorem serverChoice : Obligations.ServerChoice := by
  unfold Obligations.ServerChoice
  intro counted journal heard
  have ascends : heard.Pairwise fun p q => p.1 < q.1 := pairwise_lastDigests counted journal
  refine ⟨fun silent => by rw [silent]; rfl, fun someone => ?_⟩
  cases found : heard.find? (unbeaten heard) with
  | none =>
    obtain ⟨most, inHeard, isMost⟩ := exists_unbeaten someone
    exact absurd isMost (List.find?_eq_none.1 found most inHeard)
  | some chosen =>
    have chosenMost := (unbeaten_eq_true_iff heard chosen).1 (List.find?_some found)
    refine ⟨chosen.1, chosen.2, ?_, List.mem_of_find?_eq_some found, chosenMost, fun p mem equal => ?_⟩
    · rw [chooseServer_eq, found]
      rfl
    · exact find?_lowest (f := Prod.fst) ascends found mem ((unbeaten_eq_true_iff heard p).2 (equal ▸ chosenMost))

end Sys2Proof.Stages
end

section
/-! SUPPORT. What a close leaves of a station's entry: the entry it opens with (R4), role and flags (R7, R11, R12, R89), and
the figures, taken or aged (R8 to R10). -/

namespace Sys2Proof.Figures

open Sys2Proof.Machine Sys2Proof.Safety
open Sys2Proof.Stations hiding presenceTable

/-! The entry a close starts from (R4). -/

theorem announcedBy_own (a : Address) (role : Role) : announcedBy a (.announce a role) = some role := if_pos rfl

theorem announcedBy_eq_none {a : Address} {r : Record} (other : ∀ role, r ≠ .announce a role) : announcedBy a r = none := by
  cases r with
  | announce b role => exact if_neg fun same : b = a => other role (by rw [same])
  | _ => rfl

theorem filterMap_announcedBy_eq_nil {records : List Record} {a : Address} (silent : ∀ role, Record.announce a role ∉ records) :
    records.filterMap (announcedBy a) = [] :=
  List.filterMap_eq_nil_iff.2 fun _ mem => announcedBy_eq_none fun role same => silent role (same ▸ mem)

/-- The last ANNOUNCE of a station is the one no other stands behind. -/
theorem lastAnnounced_of_split {a : Address} {role : Role} {ahead behind : List Record}
    (silent : ∀ r, Record.announce a r ∉ behind) : lastAnnounced (ahead ++ .announce a role :: behind) a = some role := by
  rw [lastAnnounced, List.filterMap_append, List.filterMap_cons, announcedBy_own, filterMap_announcedBy_eq_nil silent]
  exact List.getLast?_append_cons ..

theorem openedEntry_of_announced {c : Committed} {journal : List Record} {a : Address} {role : Role}
    (announced : lastAnnounced journal a = some role) : openedEntry c journal a = announcedEntry role := by
  rw [openedEntry, announced]

theorem openedEntry_of_silent {journal : List Record} {a : Address} (silent : ∀ role, Record.announce a role ∉ journal)
    (c : Committed) : openedEntry c journal a = entryOf c.table a := by
  rw [openedEntry, lastAnnounced, filterMap_announcedBy_eq_nil silent]
  rfl

/-! Figures taken and aged (R9, R10). -/

theorem length_withFields (fs : List Figure) (vs : List (Option Word16)) : (withFields fs vs).length = fs.length := by
  induction fs generalizing vs with
  | nil => cases vs <;> rfl
  | cons f fs ih =>
    cases vs with
    | nil => rfl
    | cons v vs => cases v <;> exact congrArg (· + 1) (ih vs)

/-- A field that a STATUS carries replaces the figure. -/
theorem withFields_getD_of_present {fs : List Figure} {vs : List (Option Word16)} {i : Nat} {v : Word16} (inList : i < fs.length)
    (present : vs.getD i none = some v) (d : Figure) : (withFields fs vs).getD i d = { value := v, age := 0 } := by
  induction fs generalizing vs i with
  | nil => exact absurd inList (Nat.not_lt_zero i)
  | cons f fs ih =>
    cases vs with
    | nil => exact absurd present (by simp)
    | cons w vs =>
      cases i with
      | zero =>
        have same : w = some v := present
        rw [same]
        rfl
      | succ i =>
        have later := ih (vs := vs) (Nat.lt_of_succ_lt_succ inList) present
        cases w <;> exact later

/-- A field that it does not carry leaves it. -/
theorem withFields_getD_of_missing {fs : List Figure} {vs : List (Option Word16)} {i : Nat} (missing : vs.getD i none = none)
    (d : Figure) : (withFields fs vs).getD i d = fs.getD i d := by
  induction fs generalizing vs i with
  | nil => cases vs <;> rfl
  | cons f fs ih =>
    cases vs with
    | nil => rfl
    | cons w vs =>
      cases i with
      | zero =>
        have same : w = none := missing
        rw [same]
        rfl
      | succ i =>
        have later := ih (vs := vs) (i := i) missing
        cases w <;> exact later

/-- A figure that no record carries stands through the records. -/
theorem getD_foldl_of_missing {counted : List StatusBody} {i : Nat} (missing : ∀ b ∈ counted, b.figures.getD i none = none)
    (fs : List Figure) (d : Figure) : (counted.foldl (fun fs b => withFields fs b.figures) fs).getD i d = fs.getD i d := by
  induction counted generalizing fs with
  | nil => rfl
  | cons b rest ih =>
    obtain ⟨first, others⟩ := List.forall_mem_cons.1 missing
    rw [List.foldl_cons, ih others, withFields_getD_of_missing first]

/-- The values of a field that the records carry. -/
def fieldValues (i : Nat) (counted : List StatusBody) : List Word16 := counted.filterMap fun b => b.figures.getD i none

theorem fieldValues_cons_of_missing {i : Nat} {b : StatusBody} (missing : b.figures.getD i none = none)
    (rest : List StatusBody) : fieldValues i (b :: rest) = fieldValues i rest :=
  List.filterMap_cons_none (f := fun b : StatusBody => b.figures.getD i none) missing

theorem fieldValues_cons_of_present {i : Nat} {b : StatusBody} {v : Word16} (present : b.figures.getD i none = some v)
    (rest : List StatusBody) : fieldValues i (b :: rest) = v :: fieldValues i rest :=
  List.filterMap_cons_some (f := fun b : StatusBody => b.figures.getD i none) present

theorem getD_foldl_of_no_value {counted : List StatusBody} {i : Nat} (silent : fieldValues i counted = [])
    (fs : List Figure) (d : Figure) : (counted.foldl (fun fs b => withFields fs b.figures) fs).getD i d = fs.getD i d :=
  getD_foldl_of_missing (List.filterMap_eq_nil_iff.1 silent) fs d

/-- A figure that records carry is that of the last of them. -/
theorem getD_foldl_of_present {counted : List StatusBody} {i : Nat} {v : Word16}
    (last : (fieldValues i counted).getLast? = some v) {fs : List Figure} (inList : i < fs.length)
    (d : Figure) : (counted.foldl (fun fs b => withFields fs b.figures) fs).getD i d = { value := v, age := 0 } := by
  induction counted generalizing fs with
  | nil => exact absurd last (by simp [fieldValues])
  | cons b rest ih =>
    rw [List.foldl_cons]
    cases later : (fieldValues i rest).getLast? with
    | some w =>
      refine ih ?_ (by rwa [length_withFields])
      cases own : b.figures.getD i none with
      | none => rwa [fieldValues_cons_of_missing own] at last
      | some u =>
        rw [fieldValues_cons_of_present own, List.getLast?_cons, later] at last
        rw [later, ← last]
        rfl
    | none =>
      have silent := List.getLast?_eq_none_iff.1 later
      rw [getD_foldl_of_no_value silent]
      cases own : b.figures.getD i none with
      | none =>
        rw [fieldValues_cons_of_missing own, silent] at last
        exact absurd last (by simp)
      | some u =>
        rw [fieldValues_cons_of_present own, silent] at last
        have same : u = v := Option.some.inj last
        exact withFields_getD_of_present inList (same ▸ own) d

theorem getD_map_agedFigure {figures : List Figure} {i : Nat} (inList : i < figures.length) (d : Figure) :
    (figures.map agedFigure).getD i d = agedFigure (figures.getD i d) := by
  rw [List.getD_eq_getElem _ _ (by rwa [List.length_map]), List.getElem_map, List.getD_eq_getElem _ _ inList]

/-! The entry after the presence stage, from its counted records. -/

/-- The counted records are those of one role: the entry's where it is JOINING or LIVE, else the first record's. -/
theorem countedStatuses_eq_filter (e : Entry) (records : List StatusBody) :
    countedStatuses e records = records.filter fun b => decide (some b.role =
      if e.presence = .joining ∨ e.presence = .live then e.role else records.head?.map (·.role)) := by
  cases records with
  | nil => rfl
  | cons first rest =>
    unfold countedStatuses countedRole
    cases e.presence <;> rfl

theorem entryAfterCounted_of_none (e : Entry) : entryAfterCounted e [] = missedEntry e := rfl

theorem entryAfterCounted_of_last {e : Entry} {counted : List StatusBody} {last : StatusBody}
    (isLast : counted.getLast? = some last) : entryAfterCounted e counted = heardEntry e counted last := by
  rw [entryAfterCounted, isLast]

theorem verdict_entryAfterCounted (e : Entry) (counted : List StatusBody) :
    (entryAfterCounted e counted).verdict = e.verdict := by
  cases isLast : counted.getLast? with
  | none => rw [entryAfterCounted, isLast]; rfl
  | some last => rw [entryAfterCounted_of_last isLast]; rfl

/-- The figures carried over into a close with a counted STATUS: none of a list of another role (R8). -/
theorem figures_heardEntry {e : Entry} {counted : List StatusBody} {last : StatusBody} :
    (heardEntry e counted last).figures =
      figuresAfter (if e.role = some last.role then e.figures else clearedFigures) counted := rfl

theorem figures_missedEntry (e : Entry) :
    (missedEntry e).figures = if e.presence = .absent then e.figures else e.figures.map agedFigure := rfl

/-- Settles O19: the entry opened, then the close without a counted STATUS and with one. -/
theorem figuresAge : Obligations.FiguresAge := by
  unfold Obligations.FiguresAge
  intro c journal a e presence after records role counted kept
  have isCounted : countedStatuses e records = counted := countedStatuses_eq_filter e records
  have stage : presence = entryAfterCounted e counted := by
    rw [← isCounted]
    exact (entryOf_presenceStage ..).trans (presenceEntry_eq_entryAfterCounted ..)
  have later : after = { presence with verdict := after.verdict } := onlyVerdicts_closeState c journal a
  have figures : ∀ i, entryFigure after i = presence.figures.getD i clearedFigure := fun i => by rw [later]; rfl
  have missed : counted = [] → presence = missedEntry e := fun nothing => by rw [stage, nothing, entryAfterCounted_of_none]
  have heard : ∀ last, counted.getLast? = some last → presence = heardEntry e counted last := fun last isLast => by
    rw [stage, entryAfterCounted_of_last isLast]
  have carried : ∀ last, counted.getLast? = some last →
      presence.figures = counted.foldl (fun fs b => withFields fs b.figures) (kept.map agedFigure) := by
    intro last isLast
    have ofRole : some last.role = role := of_decide_eq_true (List.mem_filter.1 (List.mem_of_getLast? isLast)).2
    have some_counted : counted ≠ [] := fun nothing => by rw [nothing] at isLast; exact absurd isLast (by simp)
    have same : kept = if e.role = some last.role then e.figures else clearedFigures := by
      rw [ofRole]
      exact if_congr (or_iff_right some_counted) rfl rfl
    rw [heard last isLast, figures_heardEntry, figuresAfter, same]
  refine ⟨?announced, fun silent => openedEntry_of_silent silent c, ?_, later, fun nothing => ?_, fun last isLast => ?_,
    fun i inList => ?_⟩
  case announced =>
    rintro ahead announced behind split silent
    exact openedEntry_of_announced (split ▸ lastAnnounced_of_split silent)
  · rw [stage]
    exact verdict_entryAfterCounted e counted
  · rw [later, missed nothing]
    exact ⟨rfl, rfl, rfl, rfl⟩
  · rw [later, heard last isLast]
    exact ⟨rfl, rfl, rfl, rfl⟩
  · intro before figure present
    have keptAll : counted = [] → kept = e.figures := fun nothing => if_pos (.inl nothing)
    have figure_eq : figure = presence.figures.getD i clearedFigure := figures i
    refine ⟨fun absent nothing => ?_, fun taken missing => ?_, fun v last => ?_⟩
    · rw [figure_eq, missed nothing, figures_missedEntry, if_pos absent, ← keptAll nothing]
      rfl
    · have aged : figure = agedFigure before := by
        cases isLast : counted.getLast? with
        | none =>
          have nothing := List.getLast?_eq_none_iff.1 isLast
          have standing : e.presence ≠ .absent := taken.resolve_right (not_not.2 nothing)
          rw [figure_eq, missed nothing, figures_missedEntry, if_neg standing, ← keptAll nothing]
          exact getD_map_agedFigure inList _
        | some last =>
          rw [figure_eq, carried last isLast, getD_foldl_of_no_value missing]
          exact getD_map_agedFigure inList _
      rw [aged]
      exact ⟨rfl, rfl⟩
    · cases isLast : counted.getLast? with
      | none =>
        have nothing := List.getLast?_eq_none_iff.1 isLast
        have silent : present = [] := by
          change counted.filterMap _ = []
          rw [nothing]
          rfl
        rw [silent] at last
        exact absurd last (by simp)
      | some status =>
        rw [figure_eq, carried status isLast]
        exact getD_foldl_of_present last (by rwa [List.length_map]) _

end Sys2Proof.Figures
end

section
/-! SUPPORT. A MARK that closes a round: the slip counted (R40, R41), the TTU's notice (R114), and the witnessed close of a
LISTENING node (R42, R106, R107, R122). -/

namespace Sys2Proof.Closing

open Sys2Proof.Machine Sys2Proof.Safety Sys2Proof.Laws Sys2Proof.Terms Sys2Proof.Offers Sys2Proof.Timers Sys2Proof.Link
open Sys2Proof.Burn hiding flaringFlag burnPlacement
open Sys2Proof.Stages hiding tripSetRecords leadDutySteps tallyDecides serverChoice

/-! The round a MARK opens (R39 to R41). -/

/-- The node with a MARK of another round than the next counted as a round slip. -/
def slipped (next : Word16) (s : State) : State := if next = nextRound s.ae.round then s else countSlip s

/-- A MARK of another round than the open one, at a node that knows its own, closes that round. -/
theorem takeMark_of_other {s : State} {next : Word16}
    (join : s.ae.join = .listening ∨ s.ae.join = .joined ∨ s.ae.join = .diverged) (known : s.ae.round ≠ 0)
    (carried : next ≠ 0) (other : next ≠ s.ae.round) : takeMark next s = closeInto next (slipped next s) := by
  rw [takeMark_of_listens join, if_neg known]
  unfold markKnown slipped
  by_cases same : next = nextRound s.ae.round
  · rw [if_pos same, if_pos same]
  · rw [if_neg same, if_neg same, if_neg (not_or.2 ⟨other, carried⟩)]

theorem slipped_ae (next : Word16) (s : State) : (slipped next s).ae = s.ae := by
  unfold slipped
  split <;> rfl

/-! The TTU at a close (R114). -/

theorem noticed_of_idle {s : State} (idle : s.ttu.phase = .idle) : noticed s = s := by
  unfold noticed
  rw [idle]

theorem noticed_of_attempt {s : State} (attempt : asking s.ttu.phase = true) : noticed s = attemptFailed s := by
  unfold noticed
  cases phase : s.ttu.phase with
  | asked => rfl
  | loading => rfl
  | idle => exact absurd attempt (by rw [phase]; exact Bool.false_ne_true)
  | serving => exact absurd attempt (by rw [phase]; exact Bool.false_ne_true)

theorem noticed_of_serving {s : State} (serving : isServing s.ttu.phase = true) : noticed s = servingOver s := by
  unfold noticed
  cases phase : s.ttu.phase with
  | serving => rfl
  | _ => exact absurd serving (by rw [phase]; exact Bool.false_ne_true)

/-- The three cases of a TTU at a close. -/
theorem phase_cases (p : TransferPhase) : p = .idle ∨ asking p = true ∨ isServing p = true := by
  cases p <;> simp [asking, isServing]

theorem noticed_phase (s : State) : (noticed s).ttu.phase = .idle := by
  rcases phase_cases s.ttu.phase with idle | attempt | serving
  · rw [noticed_of_idle idle, idle]
  · rw [noticed_of_attempt attempt]
    rfl
  · rw [noticed_of_serving serving]
    rfl

theorem noticed_attempts (s : State) :
    (noticed s).ttu.attempts = s.ttu.attempts + (if asking s.ttu.phase = true then 1 else 0) := by
  rcases phase_cases s.ttu.phase with idle | attempt | serving
  · rw [noticed_of_idle idle, idle]
    rfl
  · rw [noticed_of_attempt attempt, if_pos attempt]
    rfl
  · have quiet : asking s.ttu.phase = false := by
      revert serving
      cases s.ttu.phase <;> simp [asking, isServing]
    rw [noticed_of_serving serving, quiet]
    rfl

theorem noticed_ae (s : State) : (noticed s).ae = s.ae := by
  unfold noticed
  split <;> rfl

theorem noticed_muted (s : State) : (noticed s).lc.muted = s.lc.muted := by
  unfold noticed
  split <;> rfl

/-- The notice of a close that returns no node to JOINED: the failure or the end of SERVING, then the ASK. -/
theorem closeNotice_of_stays (server : Option Address) (s : State) : closeNotice false server s = askChosen server (noticed s) := by
  have ended : (let t := failAttempt s; if isServing t.ttu.phase = true then servingEnd t else t) = noticed s := by
    unfold failAttempt noticed
    cases phase : s.ttu.phase <;> simp only [attempting, isServing, phase, if_true, Bool.false_eq_true, if_false] <;> rfl
  exact congrArg (askChosen server) ended

theorem askChosen_of_exhausted {s : State} (exhausted : 3 ≤ s.ttu.attempts) (server : Option Address) : askChosen server s = s := by
  cases server with
  | none => rfl
  | some a => exact if_neg fun may => absurd may.2 (Nat.not_lt.2 exhausted)

theorem askChosen_of_may {s : State} (idle : s.ttu.phase = .idle) (few : s.ttu.attempts < 3) (a : Address) :
    askChosen (some a) s = offerAsk a s := if_pos ⟨idle, few⟩

/-- The ASK as the TTU offers it (R107). -/
def askFrame (server : Address) (attempt : Nat) : QueuedFrame :=
  { body := .ask server attempt, originator := .ttu, tracked := true, collisions := 0 }

/-- The ASK at the tail of the queue, the TTU ASKED. -/
def asked (server : Address) (s : State) : State :=
  { appended (askFrame server (s.ttu.attempts + 1)) s with
    ttu := { s.ttu with phase := .asked server (s.ttu.attempts + 1) } }

theorem offerAsk_of_room {s : State} {server : Address}
    (admitted : admits s.ae.join s.lc.muted (.ask server (s.ttu.attempts + 1)) = true) (room : s.lc.queue.length < 8) :
    offerAsk server s = asked server s := by
  unfold offerAsk
  dsimp only
  rw [offerFrame_ordinary_tail admitted rfl room]
  rfl

theorem offerAsk_of_full {s : State} {server : Address}
    (admitted : admits s.ae.join s.lc.muted (.ask server (s.ttu.attempts + 1)) = true) (full : 8 ≤ s.lc.queue.length) :
    offerAsk server s = attemptFailed (discarded s) := by
  unfold offerAsk
  dsimp only
  rw [offerFrame_ordinary_of_full admitted rfl full]
  rfl

/-! The witnessed close (R42). -/

theorem statusBy_eq_some_iff (a : Address) (r : Record) (b : StatusBody) : statusBy a r = some b ↔ r = .status a b := by
  cases r with
  | status sender body =>
    by_cases same : sender = a
    · simp [statusBy, same]
    · simp [statusBy, same]
  | _ => simp [statusBy]

theorem statusesOf_ne_nil_iff (journal : List Record) (a : Address) :
    statusesOf journal a ≠ [] ↔ ∃ b, Record.status a b ∈ journal := by
  rw [statusesOf, ne_eq, List.filterMap_eq_nil_iff]
  constructor
  · intro some_status
    obtain ⟨r, mem, isStatus⟩ := not_forall₂.1 some_status
    obtain ⟨b, carried⟩ := Option.ne_none_iff_exists'.1 isStatus
    exact ⟨b, (statusBy_eq_some_iff a r b).1 carried ▸ mem⟩
  · rintro ⟨b, mem⟩ none_carried
    exact absurd ((statusBy_eq_some_iff a _ b).2 rfl) (by rw [none_carried _ mem]; simp)

theorem holdsStatus_eq_true_iff (journal : List Record) :
    holdsStatus journal = true ↔ ∃ a b, Record.status a b ∈ journal := by
  rw [holdsStatus, List.any_eq_true]
  simp only [← statusesOf_ne_nil_iff, mem_addresses, true_and, Bool.not_eq_true', List.isEmpty_eq_false_iff]

/-- Where a STATUS was heard there is a station to ask. -/
theorem chooseServer_of_heard {heard : List (Address × Word16)} (someone : heard ≠ []) :
    ∃ server, chooseServer heard = some server := by
  obtain ⟨p, mem, most⟩ := exists_unbeaten someone
  cases found : heard.find? (unbeaten heard) with
  | none => exact absurd most (List.find?_eq_none.1 found p mem)
  | some chosen => exact ⟨chosen.1, by rw [chooseServer_eq, found]; rfl⟩

theorem witnessedServer_of_found {journal : List Record} (found : ∃ a b, Record.status a b ∈ journal) :
    ∃ server, witnessedServer journal = some server := by
  obtain ⟨a, statuses⟩ := found
  refine chooseServer_of_heard fun silent => ?_
  have digest : (statusesOf journal a).getLast? = none := by
    have none_kept := List.filterMap_eq_nil_iff.1 silent a (mem_addresses a)
    exact Option.map_eq_none_iff.1 none_kept
  exact (statusesOf_ne_nil_iff journal a).2 statuses (List.getLast?_eq_none_iff.1 digest)

/-- The next round open with an empty journal. -/
def openedInto (next : Word16) (s : State) : State := s.setAe { s.ae with journal := [], round := next }

theorem witnessClose_of_silent {s : State} (silent : holdsStatus s.ae.journal = false) (next : Word16) :
    witnessClose next s = noticed (openedInto next s) := by
  unfold witnessClose
  rw [silent]
  exact closeNotice_of_stays none _

theorem witnessClose_of_found {s : State} (found : holdsStatus s.ae.journal = true) (next : Word16) :
    witnessClose next s =
      closeNotice false (if (announceOnce (openedInto next s)).ae.announced = true then witnessedServer s.ae.journal else none)
        (announceOnce (openedInto next s)) := by
  unfold witnessClose
  rw [found]
  rfl

/-- The ANNOUNCE at the tail of the queue, the announce mark set (R122). -/
def announcing (s : State) : State :=
  (appended (newFrame (.announce s.role) .ae) s).setAe { s.ae with announced := true }

theorem announceOnce_of_marked {s : State} (marked : s.ae.announced = true) : announceOnce s = s := if_pos marked

section

variable {s : State} (listening : s.ae.join = .listening) (unmuted : s.lc.muted = false)

include listening unmuted

theorem admits_announce : admits s.ae.join s.lc.muted (.announce s.role) = true := by rw [listening, unmuted]; rfl

theorem admits_ask (server : Address) (attempt : Nat) : admits s.ae.join s.lc.muted (.ask server attempt) = true := by
  rw [listening, unmuted]
  rfl

theorem announceOnce_of_room (clear : s.ae.announced = false) (room : s.lc.queue.length < 8) :
    announceOnce s = announcing s := by
  unfold announceOnce
  rw [clear]
  dsimp only
  rw [offerFrame_ordinary_tail (admits_announce listening unmuted) rfl room]
  rfl

theorem announceOnce_of_full (clear : s.ae.announced = false) (full : 8 ≤ s.lc.queue.length) :
    announceOnce s = discarded s := by
  unfold announceOnce
  rw [clear]
  dsimp only
  rw [offerFrame_ordinary_of_full (admits_announce listening unmuted) rfl full]
  rfl

end

theorem slipped_lc (next : Word16) (s : State) :
    (slipped next s).lc = { s.lc with counters := (slipped next s).lc.counters } := by
  unfold slipped
  split <;> rfl

theorem slipped_ttu (next : Word16) (s : State) : (slipped next s).ttu = s.ttu := by
  unfold slipped
  split <;> rfl

theorem slipped_role (next : Word16) (s : State) : (slipped next s).role = s.role := by
  unfold slipped
  split <;> rfl

theorem takesMark_muted {s h : State} {i : Instr} {round : Word16} (takes : takesMark s h i round) :
    h.lc.muted = s.lc.muted := by
  rcases takes with ⟨chars, framingError, f, rfl, -, -, -, -, rfl⟩ | ⟨l, q, rest, first, rfl, -, -, -, rfl⟩ <;> rfl

theorem takesMark_role {s h : State} {i : Instr} {round : Word16} (takes : takesMark s h i round) : h.role = s.role := by
  rcases takes with ⟨chars, framingError, f, rfl, -, -, -, -, rfl⟩ | ⟨l, q, rest, first, rfl, -, -, -, rfl⟩ <;> rfl

/-- The slip counted, as the statements write it. -/
theorem slipped_eq {s h : State} (round : h.ae.round = s.ae.round) (next : Word16) :
    slipped next h = if next = (if s.ae.round = 0xFFFF then 1 else s.ae.round + 1) then h
      else { h with lc := { h.lc with counters := { h.lc.counters with roundSlips := countUp h.lc.counters.roundSlips } } } := by
  unfold slipped nextRound
  rw [round]
  rfl

/-- The end of a witnessed close behind an ANNOUNCE: at the third failure REJOIN, else the ASK, or the failure of the ASK
that a full queue refuses (R106, R107, R113). -/
theorem settle_ask {u : State} (listening : u.ae.join = .listening) (unmuted : u.lc.muted = false) (server : Address) :
    let v := noticed u
    (v.ttu.attempts = 3 → settle (closeNotice false (some server) u) = rejoined v) ∧
      (v.ttu.attempts < 3 → v.lc.queue.length < 8 → settle (closeNotice false (some server) u) = asked server v) ∧
      (v.ttu.attempts < 3 → 8 ≤ v.lc.queue.length →
        settle (closeNotice false (some server) u) = afterFailures (attemptFailed (discarded v))) := by
  intro v
  have admitted : admits v.ae.join v.lc.muted (.ask server (v.ttu.attempts + 1)) = true :=
    admits_ask ((congrArg (·.join) (noticed_ae u)).trans listening) ((noticed_muted u).trans unmuted) _ _
  rw [closeNotice_of_stays]
  refine ⟨fun third => ?_, fun few room => ?_, fun few full => ?_⟩
  · rw [askChosen_of_exhausted (Nat.le_of_eq third.symm), settle_eq_afterFailures]
    exact if_pos (Nat.le_of_eq third.symm)
  · rw [askChosen_of_may (noticed_phase u) few, offerAsk_of_room admitted room]
    exact settle_of_lt few
  · rw [askChosen_of_may (noticed_phase u) few, offerAsk_of_full admitted full, settle_eq_afterFailures]

/-- Settles O17: no STATUS heard, an ANNOUNCE refused, and the ASK behind an ANNOUNCE. -/
theorem witnessedClose : Obligations.WitnessedClose := by
  unfold Obligations.WitnessedClose
  intro s h i next takes unmuted listening known carried other few c opened announced found
  have ae := takesMark_ae takes
  have slip : slipped next h = c := slipped_eq (takesMark_round takes) next
  have cAe : c.ae = h.ae := slip ▸ slipped_ae next h
  have cLc : c.lc = { h.lc with counters := c.lc.counters } := slip ▸ slipped_lc next h
  have cRole : c.role = s.role := (slip ▸ slipped_role next h : c.role = h.role).trans (takesMark_role takes)
  have journal : c.ae.journal = s.ae.journal := by rw [cAe, ae]
  have mark : opened.ae.announced = s.ae.announced := by
    change c.ae.announced = _
    rw [cAe, ae]
  have openedListening : opened.ae.join = .listening := by
    change c.ae.join = _
    rw [cAe, takesMark_join takes, listening]
  have openedUnmuted : opened.lc.muted = false := by
    change c.lc.muted = _
    rw [cLc, takesMark_muted takes]
    exact unmuted
  have queue : opened.lc.queue = h.lc.queue := by
    change c.lc.queue = _
    rw [cLc]
  have closes : exec i s = .next (settle (witnessClose next c)) := by
    have taken := takeMark_of_other (.inl ((takesMark_join takes).trans listening))
      (by rw [takesMark_round takes]; exact known) carried (by rw [takesMark_round takes]; exact other)
    have into : closeInto next c = witnessClose next c := by
      unfold closeInto
      rw [show c.ae.join = .listening from openedListening]
    rw [exec_takesMark takes, taken, slip, into]
  have heard : found → holdsStatus c.ae.journal = true := fun isFound => by
    rw [journal, holdsStatus_eq_true_iff]
    exact isFound
  have announce : announcing opened = announced := by
    have shape : ∀ role waiting, opened.role = role → opened.lc.queue = waiting → announcing opened =
        { opened with
          ae := { opened.ae with announced := true }
          lc := { opened.lc with queue := waiting ++ [newFrame (.announce role) .ae] } } := by
      rintro _ _ rfl rfl
      rfl
    exact shape _ _ cRole queue
  refine ⟨fun silent => ?_, fun isFound clear full => ?_, fun u cases isFound => ?_⟩
  · have none_held : holdsStatus c.ae.journal = false := by
      rw [journal, ← Bool.not_eq_true, holdsStatus_eq_true_iff]
      exact silent
    rw [closes, witnessClose_of_silent none_held, settle_eq_afterFailures]
    rfl
  · have once : announceOnce (openedInto next c) = discarded opened :=
      announceOnce_of_full openedListening openedUnmuted (mark.trans clear) (queue ▸ full)
    have unmarked : (discarded opened).ae.announced = false := mark.trans clear
    rw [closes, witnessClose_of_found (heard isFound), once, unmarked, closeNotice_of_stays, settle_eq_afterFailures]
    rfl
  · obtain ⟨server, chosen⟩ := witnessedServer_of_found isFound
    have behind : ∃ w, u = noticed w ∧ w.ae.join = .listening ∧ w.lc.muted = false ∧
        witnessClose next c = closeNotice false (some server) w := by
      have ends : ∀ w, announceOnce (openedInto next c) = w → w.ae.announced = true →
          witnessClose next c = closeNotice false (some server) w := by
        intro w once marked
        rw [witnessClose_of_found (heard isFound), once, marked, journal, chosen]
        rfl
      rcases cases with ⟨marked, rfl⟩ | ⟨clear, room, rfl⟩
      · exact ⟨opened, rfl, openedListening, openedUnmuted,
          ends opened (announceOnce_of_marked (mark.trans marked)) (mark.trans marked)⟩
      · refine ⟨announced, rfl, openedListening, openedUnmuted, ends announced ?_ rfl⟩
        rw [← announce]
        exact announceOnce_of_room openedListening openedUnmuted (mark.trans clear) (queue ▸ room)
    obtain ⟨w, rfl, isListening, isUnmuted, ended⟩ := behind
    obtain ⟨third, room, full⟩ := settle_ask isListening isUnmuted server
    refine ⟨server, chosen, fun three => ?_, fun fewer hasRoom => ?_, fun fewer isFull => ?_⟩
    · rw [closes, ended, third three]
    · rw [closes, ended, room fewer hasRoom]
      rfl
    · rw [closes, ended, full fewer isFull]

end Sys2Proof.Closing
end

section
/-! SUPPORT. What frames offered, lost and followed no longer do to a node, said once with the counts that a close keeps
(R29 to R33, R66, R107, R109, R122). -/

namespace Sys2Proof.Works

open Sys2Proof.Machine Sys2Proof.Safety Sys2Proof.Laws Sys2Proof.Terms Sys2Proof.Offers Sys2Proof.Timers Sys2Proof.Link
  Sys2Proof.Transfers

/-- The pending demand whose CLAIM was lost (R66). -/
def demandLost (d : PendingDemand) : PendingDemand := if d.stage = .queued then { stage := .idle, outcome := .notTaken } else d

theorem demandLost_demandLost (d : PendingDemand) : demandLost (demandLost d) = demandLost d := by
  by_cases queued : d.stage = .queued
  · have ended : demandLost d = { stage := .idle, outcome := .notTaken } := if_pos queued
    rw [ended]
    rfl
  · have stands : demandLost d = d := if_neg queued
    rw [stands, stands]

/-- The CLAIMs that the demand follows are all still queued and it stands, or one was lost and with it the demand. -/
def ClaimsKept (s u : State) : Prop :=
  u.lc.queue.countP demandsClaim = s.lc.queue.countP demandsClaim ∧ u.ae.demand = s.ae.demand ∨
    u.lc.queue.countP demandsClaim < s.lc.queue.countP demandsClaim ∧ u.ae.demand = demandLost s.ae.demand ∧
      u.pp.flags.getLsbD 12 = true

/-- The ANNOUNCE frames are all still queued and the mark stands, or one was lost and with it the mark. -/
def AnnouncesKept (s u : State) : Prop :=
  u.lc.queue.countP announces = s.lc.queue.countP announces ∧ u.ae.announced = s.ae.announced ∨
    u.lc.queue.countP announces < s.lc.queue.countP announces ∧ u.ae.announced = false

/-- All that the link's work at a close changes, the TTU apart: the queue and its discards, TRANSFER-FAILED and NOT-TAKEN,
the demand and the announce mark with their frames. -/
structure Work (s u : State) : Prop where
  shape : u = { s with lc := u.lc, ae := u.ae, ttu := u.ttu, pp := { s.pp with flags := u.pp.flags } }
  ae : u.ae = { s.ae with demand := u.ae.demand, announced := u.ae.announced }
  lc : u.lc = { s.lc with
    queue := u.lc.queue, counters := { s.lc.counters with discards := u.lc.counters.discards } }
  flags : ∀ n, n ≠ 6 → n ≠ 12 → u.pp.flags.getLsbD n = s.pp.flags.getLsbD n
  notTaken : s.pp.flags.getLsbD 12 = true → u.pp.flags.getLsbD 12 = true
  claims : ClaimsKept s u
  announces : AnnouncesKept s u
  marks : (∀ q ∈ s.lc.queue, q.body ≠ .mark) → ∀ q ∈ u.lc.queue, q.body ≠ .mark

theorem Work.refl (s : State) : Work s s where
  shape := rfl
  ae := rfl
  lc := rfl
  flags _ _ _ := rfl
  notTaken := id
  claims := .inl ⟨rfl, rfl⟩
  announces := .inl ⟨rfl, rfl⟩
  marks := id

theorem ClaimsKept.trans {s u w : State} (h : ClaimsKept s u) (k : ClaimsKept u w)
    (notTaken : u.pp.flags.getLsbD 12 = true → w.pp.flags.getLsbD 12 = true) : ClaimsKept s w := by
  rcases h with ⟨count, demand⟩ | ⟨count, demand, flag⟩
  · rcases k with ⟨count', demand'⟩ | ⟨count', demand', flag'⟩
    · exact .inl ⟨count'.trans count, demand'.trans demand⟩
    · exact .inr ⟨count ▸ count', demand ▸ demand', flag'⟩
  · rcases k with ⟨count', demand'⟩ | ⟨count', demand', flag'⟩
    · exact .inr ⟨count' ▸ count, demand'.trans demand, notTaken flag⟩
    · exact .inr ⟨count'.trans count, by rw [demand', demand, demandLost_demandLost], flag'⟩

theorem AnnouncesKept.trans {s u w : State} (h : AnnouncesKept s u) (k : AnnouncesKept u w) : AnnouncesKept s w := by
  rcases h with ⟨count, mark⟩ | ⟨count, mark⟩
  · rcases k with ⟨count', mark'⟩ | ⟨count', mark'⟩
    · exact .inl ⟨count'.trans count, mark'.trans mark⟩
    · exact .inr ⟨count ▸ count', mark'⟩
  · rcases k with ⟨count', mark'⟩ | ⟨count', mark'⟩
    · exact .inr ⟨count' ▸ count, mark'.trans mark⟩
    · exact .inr ⟨count'.trans count, mark'⟩

theorem Work.trans {s u w : State} (h : Work s u) (k : Work u w) : Work s w where
  shape := by rw [k.shape, h.shape]
  ae := by rw [k.ae, h.ae]
  lc := by rw [k.lc, h.lc]
  flags n six twelve := (k.flags n six twelve).trans (h.flags n six twelve)
  notTaken flag := k.notTaken (h.notTaken flag)
  claims := h.claims.trans k.claims k.notTaken
  announces := h.announces.trans k.announces
  marks unmarked := k.marks (h.marks unmarked)

theorem Work.join {s u : State} (h : Work s u) : u.ae.join = s.ae.join := by rw [h.ae]
theorem Work.committed {s u : State} (h : Work s u) : u.ae.committed = s.ae.committed := by rw [h.ae]
theorem Work.hold {s u : State} (h : Work s u) : u.ae.hold = s.ae.hold := by rw [h.ae]
theorem Work.role {s u : State} (h : Work s u) : u.role = s.role := by rw [h.shape]
theorem Work.address {s u : State} (h : Work s u) : u.address = s.address := by rw [h.shape]
theorem Work.ovs {s u : State} (h : Work s u) : u.ovs = s.ovs := by rw [h.shape]
theorem Work.vd {s u : State} (h : Work s u) : u.vd = s.vd := by rw [h.shape]

/-- The held frames and the latched record replaced (R47, R153). -/
def withHeld (hold : List HeldFrame) (latched : Channels) (s : State) : State := s.setAe { s.ae with hold, latched }

theorem withHeld_withHeld (hold : List HeldFrame) (latched : Channels) (hold' : List HeldFrame) (latched' : Channels)
    (s : State) : withHeld hold latched (withHeld hold' latched' s) = withHeld hold latched s := rfl

/-- The link's work reads neither. -/
theorem Work.withHeld {s u : State} (h : Work s u) (hold : List HeldFrame) (latched : Channels) :
    Work (withHeld hold latched s) (withHeld hold latched u) where
  shape := by
    unfold Works.withHeld
    conv_lhs => rw [h.shape]
    rfl
  ae := by
    change { u.ae with hold, latched } = _
    rw [h.ae]
    rfl
  lc := h.lc
  flags := h.flags
  notTaken := h.notTaken
  claims := h.claims
  announces := h.announces
  marks := h.marks

/-! The pieces. -/

theorem work_setTtu (x : TransferUnit) (s : State) : Work s (s.setTtu x) where
  shape := rfl
  ae := rfl
  lc := rfl
  flags _ _ _ := rfl
  notTaken := id
  claims := .inl ⟨rfl, rfl⟩
  announces := .inl ⟨rfl, rfl⟩
  marks := id

theorem work_raiseEvent {e : EventFlag} (own : flagNumber e = 6 ∨ flagNumber e = 12) (s : State) : Work s (raiseEvent e s) where
  shape := rfl
  ae := rfl
  lc := rfl
  flags n six twelve := getLsbD_withFlag_other fun same => by omega
  notTaken flag := by
    change (withFlag s.pp.flags e).getLsbD 12 = true
    rw [getLsbD_withFlag, flag, Bool.true_or]
  claims := .inl ⟨rfl, rfl⟩
  announces := .inl ⟨rfl, rfl⟩
  marks := id

theorem work_countDiscard (s : State) : Work s (countDiscard s) where
  shape := rfl
  ae := rfl
  lc := rfl
  flags _ _ _ := rfl
  notTaken := id
  claims := .inl ⟨rfl, rfl⟩
  announces := .inl ⟨rfl, rfl⟩
  marks := id

/-- Whether a frame is a CLAIM or an ANNOUNCE whose loss the AE notes. -/
def notes (q : QueuedFrame) : Bool := demandsClaim q || announces q

theorem notes_eq_false_iff (q : QueuedFrame) : notes q = false ↔ demandsClaim q = false ∧ announces q = false :=
  Bool.or_eq_false_iff

/-- The queue replaced by one that keeps the noted frames. -/
theorem work_queue {s : State} {queue : List QueuedFrame}
    (claims : queue.countP demandsClaim = s.lc.queue.countP demandsClaim)
    (announces : queue.countP announces = s.lc.queue.countP announces)
    (marks : ∀ q ∈ queue, q.body ≠ .mark ∨ ∃ x ∈ s.lc.queue, x.body = .mark) :
    Work s (s.setLc { s.lc with queue }) where
  shape := rfl
  ae := rfl
  lc := rfl
  flags _ _ _ := rfl
  notTaken := id
  claims := .inl ⟨claims, rfl⟩
  announces := .inl ⟨announces, rfl⟩
  marks unmarked q mem := by
    rcases marks q mem with other | ⟨x, queued, mark⟩
    · exact other
    · exact absurd mark (unmarked x queued)

theorem countP_map_unfollowed {p : FrameBody → Bool} {test : QueuedFrame → Bool}
    (same : ∀ q, test (if p q.body = true then { q with tracked := false } else q) = test q) (queue : List QueuedFrame) :
    (queue.map fun q => if p q.body then { q with tracked := false } else q).countP test = queue.countP test := by
  rw [List.countP_map]
  exact congrArg (List.countP · queue) (funext same)

/-- A frame of no CLAIM followed no longer. -/
theorem work_untrack {p : FrameBody → Bool} (noClaim : ∀ b, p b = true → isClaim b = false) (s : State) :
    Work s (untrack p s) := by
  refine work_queue (countP_map_unfollowed (fun q => ?_) _) (countP_map_unfollowed (fun q => ?_) _) fun q mem => ?_
  · split
    next kind => simp [demandsClaim, noClaim q.body kind]
    next => rfl
  · split <;> rfl
  · obtain ⟨x, queued, rfl⟩ := List.mem_map.1 mem
    by_cases mark : x.body = .mark
    · exact .inr ⟨x, queued, mark⟩
    · refine .inl ?_
      split
      · exact mark
      · exact mark

theorem countP_requeued (test : QueuedFrame → Bool) (w : List QueuedFrame) (s : State) :
    (setWaiting w s).lc.queue.countP test = (frontFrames s.lc).countP test + w.countP test := List.countP_append

/-- The waiting frames replaced by ones that keep the noted frames. -/
theorem work_setWaiting {s : State} {w : List QueuedFrame}
    (claims : w.countP demandsClaim = (waitingFrames s.lc).countP demandsClaim)
    (announces : w.countP announces = (waitingFrames s.lc).countP announces)
    (marks : ∀ q ∈ w, q.body ≠ .mark ∨ ∃ x ∈ s.lc.queue, x.body = .mark) : Work s (setWaiting w s) := by
  refine work_queue ?_ ?_ fun q mem => ?_
  · rw [countP_queue s.lc, ← claims]
    exact List.countP_append
  · rw [countP_queue s.lc, ← announces]
    exact List.countP_append
  · rcases List.mem_append.1 mem with front | waits
    · by_cases mark : q.body = .mark
      · exact .inr ⟨q, front_append_waiting s.lc ▸ List.mem_append_left _ front, mark⟩
      · exact .inl mark
    · exact marks q waits

theorem mem_queue_of_waits {s : State} {q : QueuedFrame} (waits : q ∈ waitingFrames s.lc) : q ∈ s.lc.queue :=
  front_append_waiting s.lc ▸ List.mem_append_right _ waits

theorem mark_or_not {s : State} {q : QueuedFrame} (waits : q ∈ waitingFrames s.lc) :
    q.body ≠ .mark ∨ ∃ x ∈ s.lc.queue, x.body = .mark := by
  by_cases mark : q.body = .mark
  · exact .inr ⟨q, mem_queue_of_waits waits, mark⟩
  · exact .inl mark

theorem countP_filter_of_kept {p test : QueuedFrame → Bool} (kept : ∀ q, test q = true → p q = true) (w : List QueuedFrame) :
    (w.filter p).countP test = w.countP test := by
  rw [List.countP_filter]
  exact List.countP_congr fun q _ => ⟨fun both => (Bool.and_eq_true_iff.1 both).1,
    fun passes => Bool.and_eq_true_iff.2 ⟨passes, kept q passes⟩⟩

/-- Frames withdrawn that the AE does not note. -/
theorem work_withdrawWaiting {p : QueuedFrame → Bool} (unnoted : ∀ q, p q = true → notes q = false) (s : State) :
    Work s (withdrawWaiting p s) := by
  have kept : ∀ q, notes q = true → (!p q) = true := fun q noted => by
    cases withdrawn : p q with
    | false => rfl
    | true => exact absurd noted (by rw [unnoted q withdrawn]; exact Bool.false_ne_true)
  refine work_setWaiting (countP_filter_of_kept (fun q claim => kept q ?_) _)
    (countP_filter_of_kept (fun q announce => kept q ?_) _) fun q mem => mark_or_not (List.mem_of_mem_filter mem)
  · rw [notes, claim, Bool.true_or]
  · rw [notes, announce, Bool.or_true]

theorem isClaim_of_isAsk {b : FrameBody} (ask : isAsk b = true) : isClaim b = false := by
  cases b with
  | ask => rfl
  | _ => exact absurd ask Bool.false_ne_true

theorem isClaim_of_isBlock {b : FrameBody} (block : isBlock b = true) : isClaim b = false := by
  cases b with
  | blockHeader => rfl
  | blockData => rfl
  | _ => exact absurd block Bool.false_ne_true

theorem notes_of_isBlock {q : QueuedFrame} (block : isBlock q.body = true) : notes q = false := by
  rw [notes_eq_false_iff, demandsClaim, isClaim_of_isBlock block, Bool.and_false]
  refine ⟨rfl, ?_⟩
  unfold announces
  revert block
  cases q.body <;> simp [isBlock]

theorem work_attemptFail (s : State) : Work s (attemptFail s) :=
  ((work_setTtu _ s).trans (work_untrack (fun _ => isClaim_of_isAsk) _)).trans (work_raiseEvent (.inl rfl) _)

theorem work_attemptEnd (s : State) : Work s (attemptEnd s) :=
  (work_setTtu _ s).trans (work_untrack (fun _ => isClaim_of_isAsk) _)

theorem work_servingEnd (s : State) : Work s (servingEnd s) :=
  ((work_withdrawWaiting (fun _ both => notes_of_isBlock (Bool.and_eq_true_iff.1 both).2) s).trans
    (work_untrack (fun _ => isClaim_of_isBlock) _)).trans (work_setTtu _ _)

theorem work_discardNotice_of_unnoted {x : QueuedFrame} (ordinary : ofClass .ordinary x = true) (unnoted : notes x = false)
    (s : State) : Work s (discardNotice x s) := by
  obtain ⟨unclaimed, unannounced⟩ := (notes_eq_false_iff x).1 unnoted
  obtain ⟨body, originator, tracked, collisions⟩ := x
  cases body with
  | claim b =>
    cases tracked with
    | false => exact .refl s
    | true => exact absurd unclaimed Bool.true_eq_false_eq_False
  | announce role => exact absurd unannounced Bool.true_eq_false_eq_False
  | ask server attempt =>
    unfold discardNotice
    dsimp only
    split
    · exact work_attemptFail s
    · exact .refl s
  | blockHeader a n st c r d =>
    cases tracked with
    | false => exact .refl s
    | true => exact work_servingEnd s
  | blockData a n i bytes =>
    cases tracked with
    | false => exact .refl s
    | true => exact work_servingEnd s
  | trip => exact absurd ordinary (by simp [ofClass, frameClass])
  | clear target => exact absurd ordinary (by simp [ofClass, frameClass])
  | _ => exact .refl s

/-! A waiting frame displaced (R31). -/

/-- The queue with a frame displaced, the discard counted, NOT-TAKEN raised. -/
def displacing (rest : List QueuedFrame) (s : State) : State := raiseEvent .notTaken (countDiscard (setWaiting rest s))

section

variable {s : State} {x : QueuedFrame} {above below : List QueuedFrame} (waiting : waitingFrames s.lc = above ++ x :: below)

include waiting

theorem countP_displaced (test : QueuedFrame → Bool) :
    s.lc.queue.countP test =
      (setWaiting (above ++ below) s).lc.queue.countP test + if test x = true then 1 else 0 := by
  rw [countP_requeued, countP_queue, waiting, List.countP_append, List.countP_append, List.countP_cons]
  omega

/-- The marks of the queue with one frame displaced. -/
theorem marks_displaced (unmarked : ∀ q ∈ s.lc.queue, q.body ≠ .mark) :
    ∀ q ∈ (setWaiting (above ++ below) s).lc.queue, q.body ≠ .mark := by
  intro q mem
  refine unmarked q ?_
  rcases List.mem_append.1 mem with front | waits
  · exact front_append_waiting s.lc ▸ List.mem_append_left _ front
  · refine mem_queue_of_waits ?_
    rw [waiting]
    exact (List.sublist_cons_self x below).append_left above |>.subset waits

/-- The loss of a CLAIM or an ANNOUNCE, noted by the AE, or of neither. -/
theorem work_displaced {demand : PendingDemand} {announced : Bool}
    (claims : demand = if demandsClaim x = true then demandLost s.ae.demand else s.ae.demand)
    (mark : announced = (s.ae.announced && !announces x)) :
    Work s ((displacing (above ++ below) s).setAe { s.ae with demand, announced }) where
  shape := rfl
  ae := rfl
  lc := rfl
  flags n six twelve := getLsbD_withFlag_other twelve
  notTaken _ := getLsbD_withFlag_same s.pp.flags .notTaken
  claims := by
    have count := countP_displaced waiting demandsClaim
    cases own : demandsClaim x with
    | true =>
      rw [own, if_pos rfl] at claims count
      exact .inr ⟨Nat.lt_of_succ_le (Nat.le_of_eq count.symm), claims, getLsbD_withFlag_same s.pp.flags .notTaken⟩
    | false =>
      rw [own, if_neg Bool.false_ne_true] at claims count
      exact .inl ⟨count.symm, claims⟩
  announces := by
    have count := countP_displaced waiting announces
    cases own : announces x with
    | true =>
      rw [own] at mark
      rw [own, if_pos rfl] at count
      exact .inr ⟨Nat.lt_of_succ_le (Nat.le_of_eq count.symm), mark.trans (Bool.and_false _)⟩
    | false =>
      rw [own] at mark
      rw [own, if_neg Bool.false_ne_true] at count
      exact .inl ⟨count.symm, mark.trans (Bool.and_true _)⟩
  marks := marks_displaced waiting

theorem work_displaceFrame (ordinary : ofClass .ordinary x = true) : Work s (displaceFrame x (above ++ below) s) := by
  change Work s (discardNotice x (displacing (above ++ below) s))
  cases noted : notes x with
  | false =>
    obtain ⟨unclaimed, unannounced⟩ := (notes_eq_false_iff x).1 noted
    have lost := work_displaced waiting (demand := s.ae.demand) (announced := s.ae.announced)
      (by rw [unclaimed]; rfl) (by rw [unannounced]; exact (Bool.and_true _).symm)
    exact lost.trans (work_discardNotice_of_unnoted ordinary noted _)
  | true =>
    obtain ⟨body, originator, tracked, collisions⟩ := x
    cases body with
    | claim b =>
      cases tracked with
      | false => exact absurd noted Bool.false_ne_true
      | true =>
        exact work_displaced waiting (demand := demandLost s.ae.demand) (announced := s.ae.announced) rfl
          (Bool.and_true _).symm
    | announce role =>
      cases tracked <;>
        exact work_displaced waiting (demand := s.ae.demand) (announced := false) rfl (Bool.and_false _).symm
    | _ =>
      refine absurd noted ?_
      cases tracked <;> exact Bool.false_ne_true

end

/-! An offer (R29 to R33). -/

/-- A frame whose loss the AE does not note, and no MARK: what a close offers. -/
def Plain (q : QueuedFrame) : Prop := notes q = false ∧ q.body ≠ .mark

theorem countP_placeFrame_unnoted {q : QueuedFrame} {test : QueuedFrame → Bool} (other : test q = false)
    (w : List QueuedFrame) : (placeFrame q w).countP test = w.countP test := by
  rw [countP_placeFrame, other]
  rfl

theorem mem_placeFrame {q x : QueuedFrame} {w : List QueuedFrame} (mem : x ∈ placeFrame q w) : x = q ∨ x ∈ w := by
  unfold placeFrame at mem
  have split : x ∈ w.filter (ofClass .head) ++ q :: w.filter (fun x => !ofClass .head x) → x = q ∨ x ∈ w := fun inside => by
    rcases List.mem_append.1 inside with front | back
    · exact .inr (List.mem_of_mem_filter front)
    · rcases List.mem_cons.1 back with own | behind
      · exact .inl own
      · exact .inr (List.mem_of_mem_filter behind)
  have tail : x ∈ w ++ [q] → x = q ∨ x ∈ w := fun inside => by
    rcases List.mem_append.1 inside with old | new
    · exact .inr old
    · exact .inl (List.mem_singleton.1 new)
  cases kind : frameClass q.body with
  | head => rw [kind] at mem; exact split mem
  | mark => rw [kind] at mem; exact split mem
  | status => rw [kind] at mem; exact tail mem
  | ordinary => rw [kind] at mem; exact tail mem

/-- A plain frame placed among waiting frames that keep the noted ones. -/
theorem work_place {q : QueuedFrame} (plain : Plain q) {s : State} {w : List QueuedFrame}
    (claims : w.countP demandsClaim = (waitingFrames s.lc).countP demandsClaim)
    (announces : w.countP announces = (waitingFrames s.lc).countP announces)
    (within : ∀ x ∈ w, x ∈ waitingFrames s.lc) : Work s (setWaiting (placeFrame q w) s) := by
  obtain ⟨unnoted, unmarked⟩ := plain
  obtain ⟨unclaimed, unannounced⟩ := (notes_eq_false_iff q).1 unnoted
  refine work_setWaiting ((countP_placeFrame_unnoted unclaimed w).trans claims)
    ((countP_placeFrame_unnoted unannounced w).trans announces) fun x mem => ?_
  rcases mem_placeFrame mem with rfl | waits
  · exact .inl unmarked
  · exact mark_or_not (within x waits)

theorem work_placed {q : QueuedFrame} (plain : Plain q) (s : State) :
    Work s (setWaiting (placeFrame q (waitingFrames s.lc)) s) := work_place plain rfl rfl fun _ => id

theorem work_refuseFull (q : QueuedFrame) (s : State) : Work s (refuseFull q s) := by
  unfold refuseFull raiseIf
  split
  · exact (work_countDiscard s).trans (work_raiseEvent (.inr rfl) _)
  · exact work_countDiscard s

/-- A displaced frame is ordinary, with none behind it. -/
theorem displaceNewest_split {w rest : List QueuedFrame} {x : QueuedFrame} (found : displaceNewest w = some (x, rest)) :
    ∃ above below, w = above ++ x :: below ∧ rest = above ++ below ∧ ofClass .ordinary x = true := by
  induction w generalizing rest with
  | nil => simp [displaceNewest] at found
  | cons a l ih =>
    rw [displaceNewest] at found
    cases later : displaceNewest l with
    | some p =>
      rw [later] at found
      obtain ⟨rfl, rfl⟩ := Prod.mk.inj (Option.some.inj found)
      obtain ⟨above, below, rfl, same, ordinary⟩ := ih later
      exact ⟨a :: above, below, rfl, by rw [same]; rfl, ordinary⟩
    | none =>
      rw [later] at found
      cases ordinary : ofClass .ordinary a with
      | false => simp [ordinary] at found
      | true =>
        simp only [ordinary, if_true, Option.some.injEq, Prod.mk.injEq] at found
        obtain ⟨rfl, rfl⟩ := found
        exact ⟨[], l, rfl, rfl, ordinary⟩

theorem work_offerWithRoom {q : QueuedFrame} (plain : Plain q) (s : State) : Work s (offerWithRoom q s).2 := by
  unfold offerWithRoom
  split
  · exact work_placed plain s
  · split
    · exact work_refuseFull q s
    · cases found : displaceNewest (waitingFrames s.lc) with
      | none => exact work_refuseFull q s
      | some p =>
        obtain ⟨x, rest⟩ := p
        obtain ⟨above, below, waiting, rfl, ordinary⟩ := displaceNewest_split found
        exact (work_displaceFrame waiting ordinary).trans (work_placed plain _)

theorem not_notes_of_status {q : QueuedFrame} (status : ofClass .status q = true) : notes q = false := by
  obtain ⟨body, originator, tracked, collisions⟩ := q
  cases body with
  | status b => cases tracked <;> rfl
  | _ => exact absurd status (by simp [ofClass, frameClass])

/-- A plain frame offered. -/
theorem work_offerFrame {q : QueuedFrame} (plain : Plain q) (s : State) : Work s (offerFrame q s).2 := by
  unfold offerFrame
  split
  · exact .refl s
  · split
    · split
      · exact .refl s
      · exact work_offerWithRoom plain s
    · split
      · have kept : ∀ x, notes x = true → (!ofClass .status x) = true := fun x noted => by
          cases status : ofClass .status x with
          | false => rfl
          | true => exact absurd noted (by rw [not_notes_of_status status]; exact Bool.false_ne_true)
        exact work_place plain (countP_filter_of_kept (fun x claim => kept x (by rw [notes, claim, Bool.true_or])) _)
          (countP_filter_of_kept (fun x announce => kept x (by rw [notes, announce, Bool.or_true])) _)
          fun x mem => List.mem_of_mem_filter mem
      · exact work_offerWithRoom plain s
    · exact work_offerWithRoom plain s
    · exact work_offerWithRoom plain s

/-! What an offer can do to the TTU. -/

/-- The TTU stands, the attempt whose ASK was lost has failed, or SERVING has ended (R107, R109). -/
def Transferring (before after : TransferUnit) : Prop :=
  after = before ∨ isAsked before.phase = true ∧ after = idleTransfer (before.attempts + 1) ∨
    after = { before with phase := .idle }

theorem Transferring.trans {a b c : TransferUnit} (h : Transferring a b) (k : Transferring b c) : Transferring a c := by
  rcases h with rfl | ⟨asked, rfl⟩ | rfl
  · exact k
  · rcases k with rfl | ⟨again, -⟩ | rfl
    · exact .inr (.inl ⟨asked, rfl⟩)
    · exact absurd again Bool.false_ne_true
    · exact .inr (.inl ⟨asked, rfl⟩)
  · rcases k with rfl | ⟨again, -⟩ | rfl
    · exact .inr (.inr rfl)
    · exact absurd again Bool.false_ne_true
    · exact .inr (.inr rfl)

theorem Transferring.of_idle {a b : TransferUnit} (h : Transferring a b) (idle : a.phase = .idle) : b = a := by
  rcases h with same | ⟨asked, -⟩ | rfl
  · exact same
  · rw [idle] at asked
    exact absurd asked Bool.false_ne_true
  · rw [← idle]

theorem Transferring.attempts {a b : TransferUnit} (h : Transferring a b) :
    b.attempts = a.attempts ∨ isAsked a.phase = true ∧ b.attempts = a.attempts + 1 := by
  rcases h with rfl | ⟨asked, rfl⟩ | rfl
  · exact .inl rfl
  · exact .inr ⟨asked, rfl⟩
  · exact .inl rfl

theorem transferring_discardNotice (x : QueuedFrame) (s : State) : Transferring s.ttu (discardNotice x s).ttu := by
  obtain ⟨body, originator, tracked, collisions⟩ := x
  cases body with
  | claim b => cases tracked <;> exact .inl rfl
  | ask server attempt =>
    unfold discardNotice
    dsimp only
    split
    next both => exact .inr (.inl ⟨(Bool.and_eq_true_iff.1 both).2, rfl⟩)
    · exact .inl rfl
  | blockHeader a n st c r d =>
    cases tracked with
    | false => exact .inl rfl
    | true => exact .inr (.inr rfl)
  | blockData a n i bytes =>
    cases tracked with
    | false => exact .inl rfl
    | true => exact .inr (.inr rfl)
  | trip => cases originator <;> exact .inl rfl
  | clear target => cases originator <;> exact .inl rfl
  | _ => exact .inl rfl

theorem transferring_offerWithRoom (q : QueuedFrame) (s : State) : Transferring s.ttu (offerWithRoom q s).2.ttu := by
  have refused : (refuseFull q s).ttu = s.ttu := by
    unfold refuseFull raiseIf
    split <;> rfl
  unfold offerWithRoom
  split
  · exact .inl rfl
  · split
    · exact .inl refused
    · cases displaceNewest (waitingFrames s.lc) with
      | none => exact .inl refused
      | some p => exact transferring_discardNotice p.1 (raiseEvent .notTaken (countDiscard (setWaiting p.2 s)))

theorem transferring_offerFrame (q : QueuedFrame) (s : State) : Transferring s.ttu (offerFrame q s).2.ttu := by
  unfold offerFrame
  split
  · exact .inl rfl
  · split
    · split
      · exact .inl rfl
      · exact transferring_offerWithRoom q s
    · split
      · exact .inl rfl
      · exact transferring_offerWithRoom q s
    · exact transferring_offerWithRoom q s
    · exact transferring_offerWithRoom q s

end Sys2Proof.Works
end

section
/-! SUPPORT. The devices at a close and a load (R14, R76): what their entries read of the node, and what they leave. -/

namespace Sys2Proof.Devices

open Sys2Proof.Machine Sys2Proof.Safety Sys2Proof.Laws Sys2Proof.Terms Sys2Proof.Overrides Sys2Proof.Transfers

/-! A change that the Override Stack's work passes by. -/

/-- A change of the node that neither reads nor alters what the stack's work is done on. -/
structure StackPasses (change : State → State) : Prop where
  ovs : ∀ s, (change s).ovs = s.ovs
  round : ∀ s, (change s).ae.round = s.ae.round
  applied : ∀ s, (change s).vd.applied = s.vd.applied
  pp : ∀ s, (change s).pp = s.pp
  withStack : ∀ s stack, change (withStack s stack) = withStack (change s) stack
  raise : ∀ s e, change (raiseEvent e s) = raiseEvent e (change s)

theorem newOverride_of_same {s t : State} (ovs : t.ovs = s.ovs) (round : t.ae.round = s.ae.round)
    (applied : t.vd.applied = s.vd.applied) (kind : OverrideKind) (value : Word16) :
    newOverride kind value t = newOverride kind value s := by
  unfold newOverride capturedDuty State.isolating
  rw [ovs, round, applied]

section

variable {change : State → State} (pass : StackPasses change)

include pass

theorem raiseIf_change (c : Bool) (e : EventFlag) (s : State) : raiseIf c e (change s) = change (raiseIf c e s) := by
  cases c with
  | false => rfl
  | true => exact (pass.raise s e).symm

theorem placeOverride_change (kind : OverrideKind) (value : Word16) (s : State) :
    (placeOverride kind value (change s)).2 = change (placeOverride kind value s).2 := by
  unfold placeOverride
  rw [pass.ovs]
  cases makeRoom s.ovs.stack with
  | none => exact (pass.raise s .stackDrop).symm
  | some room =>
    obtain ⟨stack, dropped⟩ := room
    have same : newOverride kind value ((change s).setOvs { stack }) = newOverride kind value (s.setOvs { stack }) :=
      newOverride_of_same (s := s.setOvs { stack }) (t := (change s).setOvs { stack }) rfl (pass.round s) (pass.applied s) kind value
    dsimp only
    rw [same, ← pass.withStack, raiseIf_change pass]

theorem devicePush_change (kind : OverrideKind) (s : State) : devicePush kind (change s) = change (devicePush kind s) := by
  have same : newOverride kind 0 (change s) = newOverride kind 0 s :=
    newOverride_of_same (pass.ovs s) (pass.round s) (pass.applied s) kind 0
  unfold devicePush
  rw [pass.ovs, same, placeOverride_change pass, ← pass.withStack]
  split
  · rfl
  · split
    · rfl
    · rfl

theorem deviceWithdraw_change (kind : OverrideKind) (s : State) :
    deviceWithdraw kind (change s) = change (deviceWithdraw kind s) := by
  unfold deviceWithdraw
  rw [pass.ovs, ← pass.withStack]
  split
  · rfl
  · rfl

/-- PLANT-TRIP-ISOLATE is brought in step alike where role, trips and mark are alike (R76). -/
theorem plantTripReconcile_change {s : State} (role : (change s).role = s.role)
    (trips : (change s).ae.committed.trips = s.ae.committed.trips) (mark : (change s).ae.plantTrip = s.ae.plantTrip)
    (marked : ∀ b, (change s).setAe { (change s).ae with plantTrip := b } = change (s.setAe { s.ae with plantTrip := b })) :
    plantTripReconcile (change s) = change (plantTripReconcile s) := by
  unfold plantTripReconcile
  rw [role, trips, mark, marked, marked, devicePush_change pass, deviceWithdraw_change pass]
  split
  · rfl
  · split
    · rfl
    · split
      · rfl
      · rfl

/-- The own-presence-LIVE notice comes alike where presence and mark are alike (R14). -/
theorem ownLiveNotice_change {s : State} (entry : (change s).ownEntry = s.ownEntry) (mark : (change s).ae.ownLive = s.ae.ownLive)
    (marked : (change s).setAe { (change s).ae with ownLive := true } = change (s.setAe { s.ae with ownLive := true })) :
    ownLiveNotice (change s) = change (ownLiveNotice s) := by
  have release : ∀ t : State, (change t).autoRelease = t.autoRelease := fun t => by
    unfold State.autoRelease State.profileWord
    rw [pass.pp]
  unfold ownLiveNotice
  rw [entry, mark, marked, deviceWithdraw_change pass]
  dsimp only
  rw [release, deviceWithdraw_change pass]
  split
  · split
    · rfl
    · rfl
  · rfl

end

/-! What the two notices leave. -/

/-- The stack, the target, STACK-DROP and the two marks: all that the devices' work at a close changes. -/
structure DeviceWork (s u : State) : Prop where
  shape : u = { s with
    ovs := u.ovs, vd := { s.vd with target := u.vd.target }, pp := { s.pp with flags := u.pp.flags }
    ae := { s.ae with plantTrip := u.ae.plantTrip, ownLive := u.ae.ownLive } }
  flags : ∀ n, n ≠ 11 → u.pp.flags.getLsbD n = s.pp.flags.getLsbD n

theorem DeviceWork.refl (s : State) : DeviceWork s s := ⟨rfl, fun _ _ => rfl⟩

theorem DeviceWork.trans {s t u : State} (h : DeviceWork s t) (k : DeviceWork t u) : DeviceWork s u where
  shape := by rw [k.shape, h.shape]
  flags n other := (k.flags n other).trans (h.flags n other)

theorem deviceWork_plantTrip (b : Bool) (s : State) : DeviceWork s (s.setAe { s.ae with plantTrip := b }) :=
  ⟨rfl, fun _ _ => rfl⟩

theorem deviceWork_ownLive (b : Bool) (s : State) : DeviceWork s (s.setAe { s.ae with ownLive := b }) :=
  ⟨rfl, fun _ _ => rfl⟩

theorem deviceWork_withStack (s : State) (stack : List OverrideEntry) : DeviceWork s (withStack s stack) :=
  ⟨rfl, fun _ _ => rfl⟩

theorem deviceWork_devicePush (kind : OverrideKind) (s : State) : DeviceWork s (devicePush kind s) where
  shape := by
    have vd := devicePush_vd_target kind s
    have shape := (stackWork_devicePush kind s).shape
    rw [vd] at shape
    rw [(stackWork_devicePush kind s).ae]
    exact shape
  flags _ other := flags_devicePush kind s other

theorem deviceWork_deviceWithdraw (kind : OverrideKind) (s : State) : DeviceWork s (deviceWithdraw kind s) := by
  unfold deviceWithdraw
  split
  · exact deviceWork_withStack s _
  · exact .refl s

theorem deviceWork_plantTripReconcile (s : State) : DeviceWork s (plantTripReconcile s) := by
  unfold plantTripReconcile
  split
  · exact .refl s
  · split
    · exact (deviceWork_plantTrip true s).trans (deviceWork_devicePush _ _)
    · split
      · exact (deviceWork_plantTrip false s).trans (deviceWork_deviceWithdraw _ _)
      · exact .refl s

theorem deviceWork_ownLiveNotice (s : State) : DeviceWork s (ownLiveNotice s) := by
  have freed : DeviceWork s (deviceWithdraw .rejoinHold (s.setAe { s.ae with ownLive := true })) :=
    (deviceWork_ownLive true s).trans (deviceWork_deviceWithdraw _ _)
  unfold ownLiveNotice
  split
  · dsimp only
    split
    · exact freed.trans (deviceWork_deviceWithdraw _ _)
    · exact freed
  · exact .refl s

end Sys2Proof.Devices
end

section
/-! SUPPORT. The close of a JOINED or DIVERGED node (R49, R50), stage by stage: the results handed on, the TTU's notice, the
frames offered, the events. -/

namespace Sys2Proof.RoundClose

open Sys2Proof.Machine Sys2Proof.Safety Sys2Proof.Laws Sys2Proof.Terms Sys2Proof.Offers Sys2Proof.Timers Sys2Proof.Link
  Sys2Proof.Transfers Sys2Proof.Works Sys2Proof.Devices
open Sys2Proof.Burn hiding flaringFlag burnPlacement
open Sys2Proof.Stages hiding tripSetRecords leadDutySteps tallyDecides serverChoice
open Sys2Proof.Closing hiding witnessedClose

/-! The frames of a close are plain. -/

theorem plain_newFrame {body : FrameBody} (unannounced : ∀ role, body ≠ .announce role) (unmarked : body ≠ .mark) :
    Plain (newFrame body .ae) := by
  refine ⟨(notes_eq_false_iff _).2 ⟨rfl, ?_⟩, unmarked⟩
  cases body with
  | announce role => exact absurd rfl (unannounced role)
  | _ => rfl

theorem work_offerPlain {body : FrameBody} (unannounced : ∀ role, body ≠ .announce role) (unmarked : body ≠ .mark)
    (s : State) : Work s (offerPlain body s) := work_offerFrame (plain_newFrame unannounced unmarked) s

theorem transferring_offerPlain (body : FrameBody) (s : State) : Transferring s.ttu (offerPlain body s).ttu :=
  transferring_offerFrame _ s

theorem plain_askFrame (server : Address) (attempt : Nat) : Plain (askFrame server attempt) := ⟨rfl, by simp [askFrame]⟩

/-! The TTU's notice (R114). -/

theorem work_noticed (s : State) : Work s (noticed s) := by
  rcases phase_cases s.ttu.phase with idle | attempt | serving
  · rw [noticed_of_idle idle]
    exact .refl s
  · rw [noticed_of_attempt attempt, ← attemptFail_eq_attemptFailed]
    exact work_attemptFail s
  · rw [noticed_of_serving serving, ← servingEnd_eq_servingOver]
    exact work_servingEnd s

theorem work_offerAsk (server : Address) (s : State) : Work s (offerAsk server s) := by
  have offered := work_offerFrame (plain_askFrame server (s.ttu.attempts + 1)) s
  unfold offerAsk
  dsimp only
  split
  · exact offered.trans (work_setTtu _ _)
  · exact offered.trans (work_attemptFail _)

theorem work_askChosen (server : Option Address) (s : State) : Work s (askChosen server s) := by
  cases server with
  | none => exact .refl s
  | some a =>
    unfold askChosen
    dsimp only
    split
    · exact work_offerAsk a s
    · exact .refl s

/-- At a return by agreement the attempt ends, and SERVING with it (R103, R114). -/
theorem closeNotice_of_returned (s : State) : closeNotice true none s = attemptEnd s := rfl

/-- The ASK is queued and the TTU ASKED, or it was refused and the attempt failed (R107). -/
theorem offerAsk_ttu {s : State} (idle : s.ttu.phase = .idle) (server : Address) :
    (offerAsk server s).ttu = { s.ttu with phase := .asked server (s.ttu.attempts + 1) } ∨
      (offerAsk server s).ttu = idleTransfer (s.ttu.attempts + 1) := by
  have offered := (transferring_offerFrame (askFrame server (s.ttu.attempts + 1)) s).of_idle idle
  unfold offerAsk
  dsimp only
  split
  · exact .inl (congrArg (fun t : TransferUnit => { t with phase := .asked server (s.ttu.attempts + 1) }) offered)
  · exact .inr (congrArg (fun t : TransferUnit => idleTransfer (t.attempts + 1)) offered)

/-- The attempt count and phase after the ASK of a close. -/
theorem askChosen_ttu {s : State} (idle : s.ttu.phase = .idle) (server : Option Address) :
    (askChosen server s).ttu = s.ttu ∨
      (server ≠ none ∧ s.ttu.attempts < 3) ∧
        ((isAsked (askChosen server s).ttu.phase = true ∧ (askChosen server s).ttu.attempts = s.ttu.attempts) ∨
          (askChosen server s).ttu = idleTransfer (s.ttu.attempts + 1)) := by
  cases server with
  | none => exact .inl rfl
  | some a =>
    by_cases few : s.ttu.attempts < 3
    · rw [askChosen_of_may idle few]
      refine .inr ⟨⟨by simp, few⟩, ?_⟩
      rcases offerAsk_ttu idle a with asked | failed
      · rw [asked]
        exact .inl ⟨rfl, rfl⟩
      · exact .inr failed
    · rw [askChosen_of_exhausted (Nat.le_of_not_lt few)]
      exact .inl rfl

/-! The frames behind it. -/

theorem work_automaticTake (s : State) : Work s (automaticTake s) := by
  unfold automaticTake
  split
  · exact work_offerPlain (by simp) (by simp) s
  · exact .refl s

theorem transferring_automaticTake (s : State) : Transferring s.ttu (automaticTake s).ttu := by
  unfold automaticTake
  split
  · exact transferring_offerPlain _ s
  · exact .inl rfl

theorem heldBody_plain (f : HeldFrame) : (∀ role, heldBody f ≠ .announce role) ∧ heldBody f ≠ .mark := by
  cases f <;> simp [heldBody]

theorem work_reofferHold (s : State) : Work (withHeld [] s.ae.latched s) (reofferHold s) :=
  List.foldlRecOn (motive := Work (withHeld [] s.ae.latched s)) _ _ (.refl _) fun _ work f _ =>
    work.trans (work_offerPlain (heldBody_plain f).1 (heldBody_plain f).2 _)

theorem transferring_reofferHold (s : State) : Transferring s.ttu (reofferHold s).ttu :=
  List.foldlRecOn (motive := fun t : State => Transferring s.ttu t.ttu) _ _ (.inl rfl) fun _ moved f _ =>
    moved.trans (transferring_offerPlain (heldBody f) _)

theorem work_latchAndReport (s : State) : Work (withHeld s.ae.hold s.smp.smoothed s) (latchAndReport s) :=
  work_offerPlain (by simp) (by simp) _

theorem transferring_latchAndReport (s : State) : Transferring s.ttu (latchAndReport s).ttu :=
  transferring_offerPlain _ _

/-! The stages of the close in their order (R50). -/

section

variable (next : Word16) (c : State)

/-- Stages 1 to 7 done, the MARK withdrawn (R41, R49). -/
def closedNode : State := withdrawMark (c.setAe (c.closedEngine next))

/-- The results handed on to the Valve Driver and the devices. -/
def handedNode : State := ownLiveNotice (plantTripReconcile (handResults (closedNode next c)))

/-- Whether the close returns a DIVERGED node to JOINED (R103). -/
def returns : Bool := decide (c.ae.join = .diverged ∧ c.closeJoin = .joined)

/-- The TTU told. -/
def noticedNode : State := closeNotice (returns c) c.closeServer (handedNode next c)

/-- The open offer answered (R96). -/
def takenNode : State :=
  if (noticedNode next c).ae.committed.offer then automaticTake (noticedNode next c) else noticedNode next c

/-- The held frames and the STATUS offered. -/
def reportedNode : State := latchAndReport (reofferHold (takenNode next c))

theorem performClose_eq :
    performClose next c = demandClosed (closeEvents c.ae c.closeResult.written (reportedNode next c)) := rfl

theorem closeServer_of_returns (returned : returns c = true) : c.closeServer = none := by
  obtain ⟨-, joined⟩ := of_decide_eq_true returned
  unfold State.closeServer
  rw [joined]
  rfl

theorem work_noticedNode : Work (handedNode next c) (noticedNode next c) := by
  unfold noticedNode
  cases returned : returns c with
  | true =>
    rw [closeServer_of_returns c returned]
    exact work_attemptEnd _
  | false =>
    rw [closeNotice_of_stays]
    exact (work_noticed _).trans (work_askChosen _ _)

theorem work_takenNode : Work (handedNode next c) (takenNode next c) := by
  have told := work_noticedNode next c
  unfold takenNode
  split
  · exact told.trans (work_automaticTake _)
  · exact told

theorem transferring_takenNode : Transferring (noticedNode next c).ttu (takenNode next c).ttu := by
  unfold takenNode
  split
  · exact transferring_automaticTake _
  · exact .inl rfl

theorem transferring_reportedNode : Transferring (noticedNode next c).ttu (reportedNode next c).ttu :=
  ((transferring_takenNode next c).trans (transferring_reofferHold _)).trans (transferring_latchAndReport _)

/-- All the link's work of a close, behind the results handed on. -/
theorem work_reportedNode (smp : (handedNode next c).smp = c.smp) :
    Work (withHeld [] c.smp.smoothed (handedNode next c)) (reportedNode next c) := by
  let figures := c.smp.smoothed
  let before := (takenNode next c).ae.latched
  let offered := reofferHold (takenNode next c)
  have reoffered : Work (withHeld [] before (handedNode next c)) offered :=
    ((work_takenNode next c).withHeld [] before).trans (work_reofferHold (takenNode next c))
  have sampler : offered.smp = c.smp := by
    rw [reoffered.shape]
    exact smp
  have hold : offered.ae.hold = [] := reoffered.hold
  have latched : Work (withHeld [] figures (handedNode next c)) (withHeld [] figures offered) := by
    rw [← withHeld_withHeld [] figures [] before]
    exact reoffered.withHeld [] figures
  have reported := work_latchAndReport offered
  rw [sampler, hold] at reported
  exact latched.trans reported

end

/-! The results handed on. -/

/-- The node as the close has it, in what the devices neither read nor change. -/
def closeDress (lc : LinkController) (a : AllocationEngine) (lead : Bool) (s : State) : State :=
  { s with
    lc
    ae := { a with round := s.ae.round, committed := s.ae.committed, plantTrip := s.ae.plantTrip, ownLive := s.ae.ownLive }
    vd := { s.vd with lead } }

theorem stackPasses_closeDress (lc : LinkController) (a : AllocationEngine) (lead : Bool) :
    StackPasses (closeDress lc a lead) where
  ovs _ := rfl
  round _ := rfl
  applied _ := rfl
  pp _ := rfl
  withStack _ _ := rfl
  raise _ _ := rfl

/-- The devices at a close, whatever else the close has changed. -/
theorem devices_closeDress (lc : LinkController) (a : AllocationEngine) (lead : Bool) (s : State) :
    ownLiveNotice (plantTripReconcile (closeDress lc a lead s)) =
      closeDress lc a lead (ownLiveNotice (plantTripReconcile s)) := by
  have pass := stackPasses_closeDress lc a lead
  rw [plantTripReconcile_change pass rfl rfl rfl fun _ => rfl, ownLiveNotice_change pass rfl rfl rfl]

/-- The node to which the results of a close are handed: its round, committed state and base setpoint. -/
def handedBase (round : Word16) (committed : Committed) (setpoint : Word16) (s : State) : State :=
  withStack { s with ae := { s.ae with round, committed }, vd := { s.vd with baseSetpoint := setpoint } } s.ovs.stack

/-- The base setpoint that a close hands on (R85, R105). -/
def closeSetpoint (next : Word16) (c : State) : Word16 :=
  capped (closedNode next c).ae.cap (closedNode next c).computedSetpoint

theorem handResults_eq (c : State) (lc : LinkController) (a : AllocationEngine) (lead : Bool) (setpoint : Word16)
    (plantTrip : a.plantTrip = c.ae.plantTrip) (ownLive : a.ownLive = c.ae.ownLive) :
    giveLead lead (handSetpoint setpoint { c with lc, ae := a }) =
      closeDress lc a lead (handedBase a.round a.committed setpoint c) := by
  have same : a = { a with plantTrip := c.ae.plantTrip, ownLive := c.ae.ownLive } := by rw [← plantTrip, ← ownLive]
  conv_lhs => rw [same]
  rfl

/-- The node behind the results handed on, from the devices' work on a node that differs in what they do not read. -/
theorem handedNode_eq (next : Word16) {h c : State} (same : c = { h with lc := c.lc }) :
    handedNode next c =
      closeDress (closedNode next c).lc (c.closedEngine next) (closedNode next c).leadGiven
        (ownLiveNotice (plantTripReconcile (handedBase next c.closeResult.state (closeSetpoint next c) h))) := by
  obtain ⟨lc, rfl⟩ : ∃ lc, c = { h with lc } := ⟨_, same⟩
  let c : State := { h with lc }
  have results : handResults (closedNode next c) =
      closeDress (closedNode next c).lc (c.closedEngine next) (closedNode next c).leadGiven
        (handedBase next c.closeResult.state (closeSetpoint next c) h) :=
    handResults_eq h (closedNode next c).lc (c.closedEngine next) (closedNode next c).leadGiven (closeSetpoint next c) rfl rfl
  exact (congrArg (fun t => ownLiveNotice (plantTripReconcile t)) results).trans (devices_closeDress ..)

theorem deviceWork_notices (s : State) : DeviceWork s (ownLiveNotice (plantTripReconcile s)) :=
  (deviceWork_plantTripReconcile s).trans (deviceWork_ownLiveNotice _)

theorem handedNode_smp (next : Word16) (c : State) : (handedNode next c).smp = c.smp := by
  rw [handedNode_eq (h := c) next rfl]
  change (ownLiveNotice (plantTripReconcile (handedBase next c.closeResult.state (closeSetpoint next c) c))).smp = _
  rw [(deviceWork_notices _).shape]
  rfl

theorem handedNode_ttu (next : Word16) (c : State) : (handedNode next c).ttu = c.ttu := by
  rw [handedNode_eq (h := c) next rfl]
  change (ownLiveNotice (plantTripReconcile (handedBase next c.closeResult.state (closeSetpoint next c) c))).ttu = _
  rw [(deviceWork_notices _).shape]
  rfl

end Sys2Proof.RoundClose
end

section
/-! SUPPORT. The close as a whole: its events, the node it leaves, and that two nodes with one committed state and one
journal leave it alike (R49, R50, R100). -/

namespace Sys2Proof.CloseLaws

open Sys2Proof.Machine Sys2Proof.Safety Sys2Proof.Laws Sys2Proof.Terms Sys2Proof.Offers Sys2Proof.Timers Sys2Proof.Link
  Sys2Proof.Transfers Sys2Proof.Works Sys2Proof.Devices Sys2Proof.RoundClose
open Sys2Proof.Burn hiding flaringFlag burnPlacement
open Sys2Proof.Stages hiding tripSetRecords leadDutySteps tallyDecides serverChoice
open Sys2Proof.Closing hiding witnessedClose

/-! The events of a close (R14, R67, R76, R86, R94, R102, R103). -/

/-- Event flags raised, and nothing else. -/
def Raises (s u : State) : Prop := u = { s with pp := { s.pp with flags := u.pp.flags } }

theorem Raises.trans {s t u : State} (h : Raises s t) (k : Raises t u) : Raises s u := by
  unfold Raises at *
  rw [k, h]

theorem raises_raiseIf (c : Bool) (e : EventFlag) (s : State) : Raises s (raiseIf c e s) := by cases c <;> rfl

theorem raises_raiseMoved (before : AllocationEngine) (s : State) : Raises s (raiseMoved before s) :=
  ((raises_raiseIf _ _ s).trans (raises_raiseIf _ _ _)).trans (raises_raiseIf _ _ _)

theorem raises_closeEvents (before : AllocationEngine) (written : Word16) (s : State) :
    Raises s (closeEvents before written s) :=
  (((((raises_raiseIf _ _ s).trans (raises_raiseIf _ _ _)).trans (raises_raiseIf _ _ _)).trans
    (raises_raiseMoved before _)).trans (raises_raiseIf _ _ _)).trans (raises_raiseIf _ _ _)

theorem getLsbD_raiseIf (c : Bool) (e : EventFlag) (s : State) (n : Nat) :
    (raiseIf c e s).pp.flags.getLsbD n = true ↔ s.pp.flags.getLsbD n = true ∨ c = true ∧ n = flagNumber e := by
  cases c with
  | false => simp [raiseIf]
  | true =>
    change (withFlag s.pp.flags e).getLsbD n = true ↔ _
    rw [getLsbD_withFlag, Bool.or_eq_true, decide_eq_true_iff]
    simp

theorem getLsbD_raiseMoved (before : AllocationEngine) (s : State) (n : Nat) :
    (raiseMoved before s).pp.flags.getLsbD n = true ↔ s.pp.flags.getLsbD n = true ∨
      before.committed.duty ≠ s.ae.committed.duty ∧ n = 8 ∨ tripsMoved before.committed s.ae.committed = true ∧ n = 7 ∨
      grantMoved s.role s.address before s.ae = true ∧ n = 1 := by
  unfold raiseMoved
  simp only [getLsbD_raiseIf, decide_eq_true_eq, or_assoc]
  rfl

/-- The flags after the events of a close. -/
theorem getLsbD_closeEvents (before : AllocationEngine) (written : Word16) (s : State) (n : Nat) :
    (closeEvents before written s).pp.flags.getLsbD n = true ↔ s.pp.flags.getLsbD n = true ∨
      anyBecameLive before.committed.table s.ae.committed.table = true ∧ n = 2 ∨
      anyLeftLive before.committed.table s.ae.committed.table = true ∧ n = 3 ∨
      holdsStation written s.address = true ∧ n = 0 ∨
      before.committed.duty ≠ s.ae.committed.duty ∧ n = 8 ∨ tripsMoved before.committed s.ae.committed = true ∧ n = 7 ∨
      grantMoved s.role s.address before s.ae = true ∧ n = 1 ∨ before.join ≠ s.ae.join ∧ n = 15 ∨
      (before.join = .joined ∧ s.ae.join = .diverged) ∧ n = 4 := by
  unfold closeEvents raiseMoved
  simp only [getLsbD_raiseIf, raiseIf_ae, raiseIf_address, raiseIf_role, decide_eq_true_eq, or_assoc]
  rfl

theorem anyBecameLive_eq_true_iff (before after : List Entry) :
    anyBecameLive before after = true ↔
      ∃ a, (entryOf before a).presence = .joining ∧ (entryOf after a).presence = .live := by
  simp [anyBecameLive, mem_addresses]

theorem anyLeftLive_eq_true_iff (before after : List Entry) :
    anyLeftLive before after = true ↔ ∃ a, (entryOf before a).presence = .live ∧ (entryOf after a).presence ≠ .live := by
  simp [anyLeftLive, mem_addresses]

theorem tripsMoved_eq_true_iff (before after : Committed) :
    tripsMoved before after = true ↔ ¬ (before.trips = 0 ↔ after.trips = 0) := by
  simp [tripsMoved]

theorem grantMoved_eq_true_iff (role : Role) (own : Address) (before after : AllocationEngine) :
    grantMoved role own before after = true ↔
      role = .consumer ∧ grantedTierOf before.committed.queue own ≠ grantedTierOf after.committed.queue own ∨
        role = .flare ∧ before.ownBurn ≠ after.ownBurn := by
  cases role <;> simp [grantMoved]

/-! The pending demand (R66). -/

/-- A demand that stands TAKEN ends with the verdict of the close. -/
def demandAnswered (verdict : Verdict) (d : PendingDemand) : PendingDemand :=
  if d.stage = .taken then { stage := .idle, outcome := .verdict verdict } else d

theorem demandClosed_eq (s : State) :
    demandClosed s = s.setAe { s.ae with demand := demandAnswered s.ownEntry.verdict s.ae.demand } := by
  unfold demandClosed demandAnswered
  split <;> rfl

/-! The node a close leaves. -/

section

variable (next : Word16) (c : State)

/-- The node at the end of the close, from the one that has offered its frames. -/
theorem performClose_shape :
    performClose next c = { reportedNode next c with
      ae := { (reportedNode next c).ae with
        demand := demandAnswered (entryOf (reportedNode next c).ae.committed.table (reportedNode next c).address).verdict
          (reportedNode next c).ae.demand }
      pp := { (reportedNode next c).pp with flags := (performClose next c).pp.flags } } := by
  have events := raises_closeEvents c.ae c.closeResult.written (reportedNode next c)
  rw [performClose_eq, demandClosed_eq]
  generalize closeEvents c.ae c.closeResult.written (reportedNode next c) = u at events
  rw [events]
  rfl

theorem performClose_ae :
    (performClose next c).ae = { (reportedNode next c).ae with
      demand := demandAnswered (entryOf (reportedNode next c).ae.committed.table (reportedNode next c).address).verdict
        (reportedNode next c).ae.demand } := congrArg (·.ae) (performClose_shape next c)

theorem performClose_ttu : (performClose next c).ttu = (reportedNode next c).ttu :=
  congrArg (·.ttu) (performClose_shape next c)

/-- What the link's work of the close starts from. -/
abbrev restedNode : State := withHeld [] c.smp.smoothed (handedNode next c)

theorem reportedNode_work : Work (restedNode next c) (reportedNode next c) :=
  work_reportedNode next c (handedNode_smp next c)

end

section

variable (next : Word16) {h c : State} (same : c = { h with lc := c.lc })

/-- The devices' work at the close. -/
abbrev devicesNode (next : Word16) (h c : State) : State :=
  ownLiveNotice (plantTripReconcile (handedBase next c.closeResult.state (closeSetpoint next c) h))

include same

theorem handedNode_ae : (handedNode next c).ae = { c.closedEngine next with
    plantTrip := (devicesNode next h c).ae.plantTrip, ownLive := (devicesNode next h c).ae.ownLive } := by
  have work := (deviceWork_notices (handedBase next c.closeResult.state (closeSetpoint next c) h)).shape
  have ae : (devicesNode next h c).ae = { (handedBase next c.closeResult.state (closeSetpoint next c) h).ae with
      plantTrip := (devicesNode next h c).ae.plantTrip, ownLive := (devicesNode next h c).ae.ownLive } :=
    congrArg (·.ae) work
  rw [handedNode_eq next same]
  change { c.closedEngine next with
    round := (devicesNode next h c).ae.round, committed := (devicesNode next h c).ae.committed
    plantTrip := (devicesNode next h c).ae.plantTrip, ownLive := (devicesNode next h c).ae.ownLive } = _
  have round : (devicesNode next h c).ae.round = next := congrArg (·.round) ae
  have committed : (devicesNode next h c).ae.committed = c.closeResult.state := congrArg (·.committed) ae
  rw [round, committed]
  rfl

theorem restedNode_ae : (restedNode next c).ae = { c.closedEngine next with
    plantTrip := (devicesNode next h c).ae.plantTrip, ownLive := (devicesNode next h c).ae.ownLive
    hold := [], latched := c.smp.smoothed } :=
  congrArg (fun a : AllocationEngine => { a with hold := [], latched := c.smp.smoothed }) (handedNode_ae next same)

theorem restedNode_ovs : (restedNode next c).ovs = (devicesNode next h c).ovs := by
  change (handedNode next c).ovs = _
  rw [handedNode_eq next same]
  rfl

theorem restedNode_vd : (restedNode next c).vd = { (devicesNode next h c).vd with lead := (closedNode next c).leadGiven } := by
  change (handedNode next c).vd = _
  rw [handedNode_eq next same]
  rfl

theorem restedNode_pp : (restedNode next c).pp = (devicesNode next h c).pp := by
  change (handedNode next c).pp = _
  rw [handedNode_eq next same]
  rfl

theorem restedNode_lc : (restedNode next c).lc = (closedNode next c).lc := by
  change (handedNode next c).lc = _
  rw [handedNode_eq next same]
  rfl

theorem restedNode_shape : restedNode next c = { h with
    lc := (restedNode next c).lc, ae := (restedNode next c).ae, ovs := (restedNode next c).ovs
    vd := (restedNode next c).vd, pp := { h.pp with flags := (restedNode next c).pp.flags } } := by
  have work := (deviceWork_notices (handedBase next c.closeResult.state (closeSetpoint next c) h)).shape
  have handed := handedNode_eq next same
  unfold restedNode
  rw [handed]
  generalize ownLiveNotice (plantTripReconcile (handedBase next c.closeResult.state (closeSetpoint next c) h)) = u at work
  rw [work]
  rfl

end

/-! The TTU of a close (R113, R114). -/

theorem noticedNode_ttu_of_returns {c : State} (returned : returns c = true) (next : Word16) :
    (noticedNode next c).ttu = idleTransfer 0 := by
  rw [noticedNode, closeServer_of_returns c returned, returned, closeNotice_of_returned]
  rfl

/-- A close that returns no node counts the failure of the attempt in progress, and of its own ASK if that is refused. -/
theorem noticedNode_ttu_of_stays {c : State} (stays : returns c = false) (next : Word16) :
    let failed := c.ttu.attempts + (if asking c.ttu.phase = true then 1 else 0)
    ((noticedNode next c).ttu.phase = .idle ∧ (noticedNode next c).ttu.attempts = failed) ∨
      (c.closeServer ≠ none ∧ failed < 3) ∧
        ((isAsked (noticedNode next c).ttu.phase = true ∧ (noticedNode next c).ttu.attempts = failed) ∨
          (noticedNode next c).ttu = idleTransfer (failed + 1)) := by
  intro failed
  have ttu := handedNode_ttu next c
  have attempts : (noticed (handedNode next c)).ttu.attempts = failed := by rw [noticed_attempts, ttu]
  have idle := noticed_phase (handedNode next c)
  rw [noticedNode, stays, closeNotice_of_stays]
  rcases askChosen_ttu idle c.closeServer with same | ⟨may, outcome⟩
  · rw [same]
    exact .inl ⟨idle, attempts⟩
  · rw [attempts] at may outcome
    exact .inr ⟨may, outcome⟩

/-- The attempt count after a close. -/
theorem performClose_attempts {c : State} (stays : returns c = false) (next : Word16) :
    let failed := c.ttu.attempts + (if asking c.ttu.phase = true then 1 else 0)
    (performClose next c).ttu.attempts = failed ∨
      (c.closeServer ≠ none ∧ failed < 3) ∧ (performClose next c).ttu.attempts = failed + 1 := by
  intro failed
  have moved := transferring_reportedNode next c
  rw [performClose_ttu]
  rcases noticedNode_ttu_of_stays stays next with ⟨idle, attempts⟩ | ⟨may, ⟨asked, attempts⟩ | refused⟩
  · rw [moved.of_idle idle]
    exact .inl attempts
  · rcases moved.attempts with same | ⟨-, lost⟩
    · exact .inl (same.trans attempts)
    · exact .inr ⟨may, lost.trans (congrArg (· + 1) attempts)⟩
  · rw [moved.of_idle (by rw [refused]; rfl), refused]
    exact .inr ⟨may, rfl⟩

theorem performClose_ttu_of_returns {c : State} (returned : returns c = true) (next : Word16) :
    (performClose next c).ttu = idleTransfer 0 := by
  have noticed := noticedNode_ttu_of_returns returned next
  rw [performClose_ttu, (transferring_reportedNode next c).of_idle (by rw [noticed]; rfl), noticed]

/-- Without a third failure the close ends below the limit. -/
theorem performClose_attempts_lt {c : State} (few : noThirdFailure c) (next : Word16) :
    (performClose next c).ttu.attempts < 3 := by
  cases returned : returns c with
  | true =>
    rw [performClose_ttu_of_returns returned]
    exact Nat.zero_lt_succ 2
  | false =>
    obtain ⟨two, one⟩ := few
    have bound : c.ttu.attempts + (if asking c.ttu.phase = true then 1 else 0) < 2 := by
      split
      next inAttempt => exact Nat.succ_lt_succ (one inAttempt)
      next => exact two
    rcases performClose_attempts returned next with same | ⟨-, more⟩
    · omega
    · omega

theorem performClose_committed (next : Word16) (c : State) :
    (performClose next c).ae.committed = c.closeResult.state ∧
      (performClose next c).ae.digest = stateDigest c.closeResult.state := by
  have work := (reportedNode_work next c).ae
  have rested := restedNode_ae (h := c) (c := c) next rfl
  rw [performClose_ae, work, rested]
  exact ⟨rfl, rfl⟩

/-! A MARK that closes a round. -/

theorem slipped_shape (next : Word16) (h : State) : slipped next h = { h with lc := (slipped next h).lc } := by
  unfold slipped
  split <;> rfl

/-- The close as the command that delivers the MARK runs it. -/
theorem exec_closesRound {s h : State} {i : Instr} {next : Word16} (closes : closesRound s h i next) :
    exec i s = .next (settle (performClose next (slipped next h))) := by
  obtain ⟨takes, join, known, carried, other, -⟩ := closes
  have joinH := takesMark_join takes
  have roundH := takesMark_round takes
  have taken := takeMark_of_other (s := h) (next := next) (.inr (by rw [joinH]; exact join)) (by rw [roundH]; exact known) carried
    (by rw [roundH]; exact other)
  have into : closeInto next (slipped next h) = performClose next (slipped next h) := by
    unfold closeInto
    rw [slipped_ae, joinH]
    rcases join with joined | diverged
    · rw [joined]
    · rw [diverged]
  rw [exec_takesMark takes, taken, into]

/-- Settles O32: without a third failure either node ends with what stages 2 to 6 give. -/
theorem sameJournalSameState : Obligations.SameJournalSameState := by
  unfold Obligations.SameJournalSameState
  intro s t hs ht i j next closesS closesT fewS fewT committed journal
  have ends : ∀ {u hu : State} {k : Instr}, closesRound u hu k next → noThirdFailure u →
      exec k u = .next (performClose next (slipped next hu)) ∧
        (slipped next hu).closeResult = closeState u.ae.committed u.ae.journal := by
    intro u hu k closes few
    obtain ⟨takes, -⟩ := id closes
    have sameTtu : (slipped next hu).ttu = u.ttu := (slipped_ttu next hu).trans (takesMark_ttu takes)
    have unfailed : noThirdFailure (slipped next hu) := by
      unfold noThirdFailure
      rw [sameTtu]
      exact few
    rw [exec_closesRound closes, settle_of_lt (performClose_attempts_lt unfailed next)]
    refine ⟨rfl, ?_⟩
    unfold State.closeResult
    rw [slipped_ae, takesMark_ae takes]
  obtain ⟨execS, resultS⟩ := ends closesS fewS
  obtain ⟨execT, resultT⟩ := ends closesT fewT
  obtain ⟨committedS, digestS⟩ := performClose_committed next (slipped next hs)
  obtain ⟨committedT, digestT⟩ := performClose_committed next (slipped next ht)
  have result : (slipped next hs).closeResult = (slipped next ht).closeResult := by rw [resultS, resultT, committed, journal]
  exact ⟨_, _, execS, execT, by rw [committedS, committedT, result], by rw [digestS, digestT, result]⟩

end Sys2Proof.CloseLaws
end

section
/-! SUPPORT. The node a close of a JOINED or DIVERGED node leaves, part by part (R37, R41, R48 to R50, R66, R85, R94, R97,
R100 to R105, R113, R114, R122). -/

namespace Sys2Proof.CloseResults

open Sys2Proof.Machine Sys2Proof.Safety Sys2Proof.Laws Sys2Proof.Terms Sys2Proof.Offers Sys2Proof.Timers Sys2Proof.Link
  Sys2Proof.Transfers Sys2Proof.Works Sys2Proof.Devices Sys2Proof.RoundClose
open Sys2Proof.Stages hiding tripSetRecords leadDutySteps tallyDecides serverChoice
open Sys2Proof.Closing hiding witnessedClose
open Sys2Proof.CloseLaws hiding sameJournalSameState

/-! What the delivery of the MARK leaves of the node. -/

/-- A MARK that closes a round finds no frame of the node's on the line, and all but the clock and the link as before. -/
theorem closesRound_shape {s h : State} {i : Instr} {next : Word16} (closes : closesRound s h i next) :
    ∃ now lc, h = { s with now, lc } ∧ lc.onLine = none := by
  obtain ⟨takes, join, -⟩ := closes
  rcases takes with ⟨chars, framingError, f, rfl, ends, -, -, -, rfl⟩ | ⟨l, q, rest, first, rfl, -, -, -, rfl⟩
  · have attends : s.ae.join ≠ .listening := by rcases join with h | h <;> rw [h] <;> decide
    have silence : (frameEnded s chars.length).ae = s.ae :=
      congrArg (fun t => { s.ae with silenceTimer := t }) (if_neg attends)
    exact ⟨(frameEnded s chars.length).now, (heardGood (frameEnded s chars.length) f.sender).lc,
      congrArg (fun a => { s with
        now := (frameEnded s chars.length).now, lc := (heardGood (frameEnded s chars.length) f.sender).lc, ae := a }) silence,
      ends.1⟩
  · exact ⟨_, _, rfl, rfl⟩

/-- The round slips after a MARK of a round. -/
def slips (next : Word16) (s : State) : Word16 :=
  if next = (if s.ae.round = 0xFFFF then 1 else s.ae.round + 1) then s.lc.counters.roundSlips
  else countUp s.lc.counters.roundSlips

theorem slipped_eq_slips (next : Word16) (s : State) :
    slipped next s = { s with lc := { s.lc with counters := { s.lc.counters with roundSlips := slips next s } } } := by
  have counted : ∀ k, (if next = k then s else countSlip s) = { s with lc := { s.lc with counters := { s.lc.counters with
      roundSlips := if next = k then s.lc.counters.roundSlips else countUp s.lc.counters.roundSlips } } } := fun k => by
    split <;> rfl
  exact counted (nextRound s.ae.round)

/-! Stage 1 (R102, R105). -/

theorem closeJoin_of_rounds {c : State} (rounds : c.ae.join = .joined ∨ c.ae.join = .diverged) :
    c.closeJoin = .joined ∨ c.closeJoin = .diverged := by
  unfold State.closeJoin
  rcases rounds with join | join
  · rw [join, joinAfterTally_joined]
    exact (ite_eq_or_eq ..).symm
  · rw [join, joinAfterTally_diverged]
    exact ite_eq_or_eq ..

theorem closeCap_eq {c : State} (rounds : c.ae.join = .joined ∨ c.ae.join = .diverged) :
    c.closeCap = if c.closeJoin = .diverged then (if c.ae.join = .joined then some c.vd.baseSetpoint else c.ae.cap)
      else none := by
  unfold State.closeCap
  rcases closeJoin_of_rounds rounds with after | after
  · rw [after]
    rcases rounds with join | join <;> rw [join] <;> rfl
  · rw [after]
    rcases rounds with join | join <;> rw [join] <;> rfl

theorem returns_eq_true_iff (c : State) : returns c = true ↔ c.ae.join = .diverged ∧ c.closeJoin = .joined :=
  decide_eq_true_iff

theorem chooseServer_ne_none_iff (heard : List (Address × Word16)) : chooseServer heard ≠ none ↔ heard ≠ [] := by
  constructor
  · rintro chosen rfl
    exact chosen rfl
  · intro someone
    obtain ⟨server, chosen⟩ := chooseServer_of_heard someone
    rw [chosen]
    simp

theorem closeServer_ne_none_iff (c : State) :
    c.closeServer ≠ none ↔ c.closeJoin = .diverged ∧ c.closeTally.differing ≠ [] := by
  unfold State.closeServer
  split
  next diverged => rw [chooseServer_ne_none_iff]; exact (and_iff_right diverged).symm
  next other => simp [other]

/-! The queue without a MARK (R41). -/

theorem closedNode_queue {c : State} (offLine : c.lc.onLine = none) (next : Word16) :
    (closedNode next c).lc = { c.lc with queue := c.lc.queue.filter fun q => decide (q.body ≠ .mark) } := by
  have front : frontFrames c.lc = [] := by
    unfold frontFrames
    rw [offLine]
    rfl
  have tests : (fun q => !ofClass .mark q) = fun q : QueuedFrame => decide (q.body ≠ .mark) := by
    funext q
    rw [ofClass, ← decide_not]
    exact decide_eq_decide.2 (not_congr (frameClass_eq_mark_iff q.body))
  change withWaiting c.lc ((waitingFrames c.lc).filter fun q => !ofClass .mark q) = _
  rw [withWaiting, front, waitingFrames_of_offLine offLine, tests]
  rfl

theorem countP_unmarked {test : QueuedFrame → Bool} (unmarked : ∀ q, test q = true → q.body ≠ .mark) (queue : List QueuedFrame) :
    (queue.filter fun q => decide (q.body ≠ .mark)).countP test = queue.countP test :=
  countP_filter_of_kept (fun q passes => decide_eq_true (unmarked q passes)) queue

theorem demandsClaim_unmarked {q : QueuedFrame} (claim : demandsClaim q = true) : q.body ≠ .mark := fun mark => by
  simp [demandsClaim, mark, isClaim] at claim

theorem announces_unmarked {q : QueuedFrame} (announce : announces q = true) : q.body ≠ .mark := fun mark => by
  simp [announces, mark] at announce

/-! The engine, the Valve Driver and the flags. -/

/-- The event of a close that raises a flag (R14, R67, R76, R86, R94, R102, R103, R161). -/
def closeEvent (h c : State) (n : Nat) : Prop :=
  (∃ a, (entryOf h.ae.committed.table a).presence = .joining ∧ (entryOf c.closeResult.state.table a).presence = .live) ∧
      n = 2 ∨
    (∃ a, (entryOf h.ae.committed.table a).presence = .live ∧ (entryOf c.closeResult.state.table a).presence ≠ .live) ∧
      n = 3 ∨
    c.closeResult.written.getLsbD h.address.val = true ∧ n = 0 ∨
    h.ae.committed.duty ≠ c.closeResult.state.duty ∧ n = 8 ∨
    ¬ (h.ae.committed.trips = 0 ↔ c.closeResult.state.trips = 0) ∧ n = 7 ∨
    (h.role = .consumer ∧ grantedTierOf h.ae.committed.queue h.address ≠ grantedTierOf c.closeResult.state.queue h.address ∨
      h.role = .flare ∧ h.ae.ownBurn ≠ placedBurn c.closeResult.placed h.address) ∧ n = 1 ∨
    h.ae.join ≠ c.closeJoin ∧ n = 15 ∨ (h.ae.join = .joined ∧ c.closeJoin = .diverged) ∧ n = 4

section

variable (h c : State)

theorem closeEvent_verdict : closeEvent h c 0 ↔ c.closeResult.written.getLsbD h.address.val = true := by
  simp [closeEvent]

theorem closeEvent_grantChanged : closeEvent h c 1 ↔
    h.role = .consumer ∧ grantedTierOf h.ae.committed.queue h.address ≠ grantedTierOf c.closeResult.state.queue h.address ∨
      h.role = .flare ∧ h.ae.ownBurn ≠ placedBurn c.closeResult.placed h.address := by
  simp [closeEvent]

theorem closeEvent_stationLive : closeEvent h c 2 ↔
    ∃ a, (entryOf h.ae.committed.table a).presence = .joining ∧ (entryOf c.closeResult.state.table a).presence = .live := by
  simp [closeEvent]

theorem closeEvent_stationLost : closeEvent h c 3 ↔
    ∃ a, (entryOf h.ae.committed.table a).presence = .live ∧ (entryOf c.closeResult.state.table a).presence ≠ .live := by
  simp [closeEvent]

theorem closeEvent_diverged : closeEvent h c 4 ↔ h.ae.join = .joined ∧ c.closeJoin = .diverged := by
  simp [closeEvent]

theorem closeEvent_tripChanged : closeEvent h c 7 ↔ ¬ (h.ae.committed.trips = 0 ↔ c.closeResult.state.trips = 0) := by
  simp [closeEvent]

theorem closeEvent_dutyChanged : closeEvent h c 8 ↔ h.ae.committed.duty ≠ c.closeResult.state.duty := by
  simp [closeEvent]

theorem closeEvent_joinChange : closeEvent h c 15 ↔ h.ae.join ≠ c.closeJoin := by
  simp [closeEvent]

/-- A close raises no flag of the transfer, of the link's faults, of the stack or of the Sampler. -/
theorem not_closeEvent {n : Nat} (other : n ∈ [5, 9, 10, 13, 14]) : ¬ closeEvent h c n := by
  have bits : n = 5 ∨ n = 9 ∨ n = 10 ∨ n = 13 ∨ n = 14 := by simpa using other
  rcases bits with rfl | rfl | rfl | rfl | rfl <;> simp [closeEvent]

end

section

variable (next : Word16) {h c : State} (same : c = { h with lc := c.lc })

include same

theorem performClose_engine : (performClose next c).ae = { c.closedEngine next with
    plantTrip := (devicesNode next h c).ae.plantTrip, ownLive := (devicesNode next h c).ae.ownLive
    demand := (performClose next c).ae.demand, announced := (performClose next c).ae.announced
    hold := [], latched := c.smp.smoothed } := by
  rw [performClose_ae, (reportedNode_work next c).ae, restedNode_ae next same]

theorem performClose_ovs : (performClose next c).ovs = (devicesNode next h c).ovs := by
  rw [performClose_shape, ← restedNode_ovs next same]
  exact (reportedNode_work next c).ovs

theorem performClose_vd :
    (performClose next c).vd = { (devicesNode next h c).vd with lead := (closedNode next c).leadGiven } := by
  rw [performClose_shape, ← restedNode_vd next same]
  exact (reportedNode_work next c).vd

theorem performClose_baseSetpoint : (performClose next c).vd.baseSetpoint = closeSetpoint next c := by
  rw [performClose_vd next same]
  have work : DeviceWork (handedBase next c.closeResult.state (closeSetpoint next c) h) (devicesNode next h c) :=
    deviceWork_notices _
  exact congrArg (·.vd.baseSetpoint) work.shape

theorem performClose_whole : performClose next c = { h with
    lc := (performClose next c).lc, ae := (performClose next c).ae, ttu := (performClose next c).ttu
    ovs := (performClose next c).ovs, vd := (performClose next c).vd
    pp := { h.pp with flags := (performClose next c).pp.flags } } := by
  have shape := performClose_shape next c
  have work := (reportedNode_work next c).shape
  have rested := restedNode_shape next same
  generalize restedNode next c = r at work rested
  generalize reportedNode next c = u at shape work
  rw [shape, work, rested]

/-- The flags after the close, by their bits: those before it, and its events. -/
theorem performClose_flags {n : Nat} (notFailed : n ≠ 6) (notDrop : n ≠ 11) (notTaken : n ≠ 12) :
    (performClose next c).pp.flags.getLsbD n = true ↔ h.pp.flags.getLsbD n = true ∨ closeEvent h c n := by
  have ae : c.ae = h.ae := by rw [same]
  have address : c.address = h.address := by rw [same]
  have work := reportedNode_work next c
  have engine : (reportedNode next c).ae = { (restedNode next c).ae with
      demand := (reportedNode next c).ae.demand, announced := (reportedNode next c).ae.announced } := work.ae
  have rested := restedNode_ae next same
  have committed : (reportedNode next c).ae.committed = c.closeResult.state := by rw [engine, rested]; rfl
  have join : (reportedNode next c).ae.join = c.closeJoin := by rw [engine, rested]; rfl
  have ownBurn : (reportedNode next c).ae.ownBurn = placedBurn c.closeResult.placed h.address := by
    rw [engine, rested, ← address]
    rfl
  have shape := restedNode_shape next same
  have role : (reportedNode next c).role = h.role := by rw [work.role, shape]
  have own : (reportedNode next c).address = h.address := by rw [work.address, shape]
  have before : (reportedNode next c).pp.flags.getLsbD n = h.pp.flags.getLsbD n := by
    rw [work.flags n notFailed notTaken, restedNode_pp next same]
    exact (deviceWork_notices (handedBase next c.closeResult.state (closeSetpoint next c) h)).flags n notDrop
  have closed : (performClose next c).pp = (closeEvents c.ae c.closeResult.written (reportedNode next c)).pp := by
    rw [performClose_eq, demandClosed_eq]
    rfl
  rw [closed, getLsbD_closeEvents, before, committed, join, role, own, ae, anyBecameLive_eq_true_iff,
    anyLeftLive_eq_true_iff, tripsMoved_eq_true_iff, grantMoved_eq_true_iff, committed, ownBurn]
  rfl

theorem performClose_drop :
    (performClose next c).pp.flags.getLsbD 11 = true ↔ (devicesNode next h c).pp.flags.getLsbD 11 = true := by
  have closed : (performClose next c).pp = (closeEvents c.ae c.closeResult.written (reportedNode next c)).pp := by
    rw [performClose_eq, demandClosed_eq]
    rfl
  have before : (reportedNode next c).pp.flags.getLsbD 11 = (devicesNode next h c).pp.flags.getLsbD 11 := by
    rw [(reportedNode_work next c).flags 11 (by decide) (by decide), restedNode_pp next same]
  rw [closed, getLsbD_closeEvents, before]
  simp

end

/-! The link. -/

section

variable (next : Word16) {c : State} (offLine : c.lc.onLine = none)

include offLine

theorem restedNode_queue :
    (restedNode next c).lc = { c.lc with queue := c.lc.queue.filter fun q => decide (q.body ≠ .mark) } :=
  (restedNode_lc (h := c) next rfl).trans (closedNode_queue offLine next)

theorem performClose_lc : (performClose next c).lc = { c.lc with
    queue := (performClose next c).lc.queue
    counters := { c.lc.counters with discards := (performClose next c).lc.counters.discards } } := by
  have lc : (performClose next c).lc = (reportedNode next c).lc := congrArg (·.lc) (performClose_shape next c)
  have work := (reportedNode_work next c).lc
  rw [restedNode_queue next offLine] at work
  rw [lc]
  exact work

theorem performClose_unmarked : ∀ q ∈ (performClose next c).lc.queue, q.body ≠ .mark := by
  have lc : (performClose next c).lc = (reportedNode next c).lc := congrArg (·.lc) (performClose_shape next c)
  rw [lc]
  refine (reportedNode_work next c).marks fun q mem => ?_
  rw [restedNode_queue next offLine] at mem
  exact of_decide_eq_true (List.mem_filter.1 mem).2

/-- The CLAIMs that the demand follows and the demand itself through the close. -/
theorem performClose_claims :
    (performClose next c).lc.queue.countP demandsClaim = c.lc.queue.countP demandsClaim ∧
        (reportedNode next c).ae.demand = c.ae.demand ∨
      (performClose next c).lc.queue.countP demandsClaim < c.lc.queue.countP demandsClaim ∧
        (reportedNode next c).ae.demand = demandLost c.ae.demand ∧
        (performClose next c).pp.flags.getLsbD 12 = true := by
  have lc : (performClose next c).lc = (reportedNode next c).lc := congrArg (·.lc) (performClose_shape next c)
  have count : (restedNode next c).lc.queue.countP demandsClaim = c.lc.queue.countP demandsClaim := by
    rw [restedNode_queue next offLine]
    exact countP_unmarked (fun _ => demandsClaim_unmarked) _
  have demand : (restedNode next c).ae.demand = c.ae.demand := by rw [restedNode_ae (h := c) next rfl]; rfl
  have flag : (reportedNode next c).pp.flags.getLsbD 12 = true → (performClose next c).pp.flags.getLsbD 12 = true := by
    intro raised
    have closed : (performClose next c).pp = (closeEvents c.ae c.closeResult.written (reportedNode next c)).pp := by
      rw [performClose_eq, demandClosed_eq]
      rfl
    rw [closed, getLsbD_closeEvents]
    exact .inl raised
  rw [lc]
  rcases (reportedNode_work next c).claims with ⟨kept, stands⟩ | ⟨lost, ended, raised⟩
  · exact .inl ⟨kept.trans count, stands.trans demand⟩
  · exact .inr ⟨count ▸ lost, ended.trans (congrArg demandLost demand), flag raised⟩

theorem performClose_announced :
    (performClose next c).ae.announced =
      (c.ae.announced && decide ((performClose next c).lc.queue.countP announces = c.lc.queue.countP announces)) := by
  have lc : (performClose next c).lc = (reportedNode next c).lc := congrArg (·.lc) (performClose_shape next c)
  have mark : (performClose next c).ae.announced = (reportedNode next c).ae.announced :=
    congrArg (·.announced) (performClose_ae next c)
  have count : (restedNode next c).lc.queue.countP announces = c.lc.queue.countP announces := by
    rw [restedNode_queue next offLine]
    exact countP_unmarked (fun _ => announces_unmarked) _
  have before : (restedNode next c).ae.announced = c.ae.announced := by rw [restedNode_ae (h := c) next rfl]; rfl
  rw [mark, lc]
  rcases (reportedNode_work next c).announces with ⟨kept, stands⟩ | ⟨lost, cleared⟩
  · rw [stands, before, decide_eq_true (kept.trans count), Bool.and_true]
  · have fewer : (reportedNode next c).lc.queue.countP announces ≠ c.lc.queue.countP announces :=
      fun equal => absurd lost (by rw [equal, count]; exact Nat.lt_irrefl _)
    rw [cleared, decide_eq_false fewer, Bool.and_false]

end

/-! The TTU. -/

/-- At a full queue the ASK of a close is refused, whatever refuses it (R31, R33). -/
theorem offerAsk_ttu_of_full {s : State} (full : 8 ≤ s.lc.queue.length) (server : Address) :
    (offerAsk server s).ttu = idleTransfer (s.ttu.attempts + 1) := by
  cases admitted : admits s.ae.join s.lc.muted (.ask server (s.ttu.attempts + 1)) with
  | true =>
    rw [offerAsk_of_full admitted full]
    rfl
  | false =>
    have refused := offerFrame_of_refused (q := askFrame server (s.ttu.attempts + 1)) admitted
    have same : offerAsk server s = attemptFail s := by
      unfold offerAsk
      dsimp only
      rw [show (⟨.ask server (s.ttu.attempts + 1), .ttu, true, 0⟩ : QueuedFrame) = askFrame server (s.ttu.attempts + 1) from rfl,
        refused]
      rfl
    rw [same]
    rfl

/-- The queue as long behind the notice to a TTU that serves none. -/
theorem noticed_length {s : State} (notServing : isServing s.ttu.phase = false) :
    (noticed s).lc.queue.length = s.lc.queue.length := by
  rcases phase_cases s.ttu.phase with idle | attempt | serving
  · rw [noticed_of_idle idle]
  · rw [noticed_of_attempt attempt]
    exact List.length_map ..
  · rw [notServing] at serving
    exact absurd serving Bool.false_ne_true

/-- A DIVERGED node with a station to ask and a full queue counts the failure of its ASK (R107, R113). -/
theorem performClose_ttu_of_full {c : State} (stays : returns c = false) (offLine : c.lc.onLine = none) (next : Word16)
    (notServing : isServing c.ttu.phase = false) (full : 8 ≤ (c.lc.queue.filter fun q => decide (q.body ≠ .mark)).length)
    (chosen : c.closeServer ≠ none) (few : c.ttu.attempts + (if asking c.ttu.phase = true then 1 else 0) < 3) :
    (performClose next c).ttu = idleTransfer (c.ttu.attempts + (if asking c.ttu.phase = true then 1 else 0) + 1) := by
  have ttu := handedNode_ttu next c
  have attempts : (noticed (handedNode next c)).ttu.attempts =
      c.ttu.attempts + (if asking c.ttu.phase = true then 1 else 0) := by rw [noticed_attempts, ttu]
  have idle := noticed_phase (handedNode next c)
  have queue : (handedNode next c).lc.queue = c.lc.queue.filter fun q => decide (q.body ≠ .mark) :=
    congrArg (·.queue) (restedNode_queue next offLine)
  have isFull : 8 ≤ (noticed (handedNode next c)).lc.queue.length := by
    rw [noticed_length (by rw [ttu]; exact notServing), queue]
    exact full
  obtain ⟨server, isChosen⟩ := Option.ne_none_iff_exists'.1 chosen
  have told : (noticedNode next c).ttu =
      idleTransfer (c.ttu.attempts + (if asking c.ttu.phase = true then 1 else 0) + 1) := by
    rw [noticedNode, stays, closeNotice_of_stays, isChosen, askChosen_of_may idle (by rw [attempts]; exact few),
      offerAsk_ttu_of_full isFull, attempts]
  rw [performClose_ttu, (transferring_reportedNode next c).of_idle (by rw [told]; rfl), told]

/-- The base setpoint that a close hands on (R85, R105). -/
theorem closeSetpoint_eq (next : Word16) (c : State) :
    closeSetpoint next c = capped c.closeCap
      (match c.role with
        | .producer | .store => c.profileWord 2
        | .consumer => grantedDrawOf c.closeResult.state.queue c.address
        | .flare => BitVec.ofNat 16 (placedBurn c.closeResult.placed c.address)) := by
  refine congrArg (capped c.closeCap) ?_
  change (match c.role with
    | .producer => _ | .store => _ | .consumer => _ | .flare => _) = _
  cases c.role <;> rfl

/-- Settles O15: each part of the node from the lemma that says it of the close. -/
theorem markClosesRound : Obligations.MarkClosesRound := by
  unfold Obligations.MarkClosesRound
  intro s h i next closes before r
  have execution := exec_closesRound closes
  obtain ⟨now, lc, rfl, offLine⟩ := closesRound_shape closes
  obtain ⟨-, rounds, -⟩ := closes
  let h : State := { s with now, lc }
  let c : State := { h with lc := { lc with counters := { lc.counters with roundSlips := slips next h } } }
  let t := performClose next c
  let u := devicesNode next h c
  have same : c = { h with lc := c.lc } := rfl
  rw [show slipped next { s with now, lc } = c from slipped_eq_slips next h, settle_eq_afterFailures] at execution
  have engine : t.ae = { c.closedEngine next with
      plantTrip := u.ae.plantTrip, ownLive := u.ae.ownLive, demand := t.ae.demand, announced := t.ae.announced
      hold := [], latched := c.smp.smoothed } := performClose_engine next same
  have join : t.ae.join = c.closeJoin := congrArg (·.join) engine
  have cap : t.ae.cap = c.closeCap := congrArg (·.cap) engine
  have ownBurn : t.ae.ownBurn = placedBurn r.placed s.address := congrArg (·.ownBurn) engine
  have vd : t.vd = { u.vd with lead := (closedNode next c).leadGiven } := performClose_vd next same
  have setpoint : t.vd.baseSetpoint = closeSetpoint next c := performClose_baseSetpoint next same
  have flags : ∀ {n : Nat} {p : Prop}, n ≠ 6 ∧ n ≠ 11 ∧ n ≠ 12 → (closeEvent h c n ↔ p) →
      (t.pp.flags.getLsbD n = true ↔ s.pp.flags.getLsbD n = true ∨ p) := fun ⟨six, eleven, twelve⟩ event =>
    (performClose_flags next same six eleven twelve).trans (or_congr Iff.rfl event)
  have closedDemand : t.ae.demand = demandAnswered (entryOf r.state.table s.address).verdict (reportedNode next c).ae.demand := by
    have committed : (reportedNode next c).ae.committed = c.closeResult.state := by
      rw [(reportedNode_work next c).ae, restedNode_ae next same]
      rfl
    have address : (reportedNode next c).address = c.address := by
      rw [(reportedNode_work next c).address, restedNode_shape next same]
    have demand := congrArg (·.demand) (performClose_ae next c)
    dsimp only at demand
    rw [committed, address] at demand
    exact demand
  refine ⟨t, execution, join, congrArg (·.round) engine, congrArg (·.journal) engine, congrArg (·.roundTimer) engine,
    congrArg (·.hold) engine, congrArg (·.committed) engine, congrArg (·.digest) engine, ownBurn, ?cap, ?setpoint, ?lead,
    congrArg (·.latched) engine, congrArg (·.silenceTimer) engine, congrArg (·.lastTier) engine, ?devices, ?flags, ?link,
    performClose_unmarked next offLine, ?demand, performClose_announced next offLine, ?transfer,
    performClose_whole next same⟩
  case cap =>
    rw [cap, join]
    exact closeCap_eq rounds
  case setpoint =>
    rw [setpoint, cap, closeSetpoint_eq]
    cases c.closeCap with
    | none => rfl
    | some v => rfl
  case lead =>
    rw [join]
    exact congrArg (·.lead) vd
  case devices =>
    rw [setpoint]
    have lead := vd.trans (congrArg (fun held => { u.vd with lead := held }) (congrArg (·.lead) vd).symm)
    exact ⟨performClose_ovs next same, lead, congrArg (·.plantTrip) engine, congrArg (·.ownLive) engine,
      performClose_drop next same⟩
  case flags =>
    intro raisedWhen was is
    rw [join, ownBurn]
    refine ⟨flags (by decide) (closeEvent_verdict h c), flags (by decide) (closeEvent_grantChanged h c),
      flags (by decide) (closeEvent_stationLive h c), flags (by decide) (closeEvent_stationLost h c),
      flags (by decide) (closeEvent_diverged h c), flags (by decide) (closeEvent_tripChanged h c),
      flags (by decide) (closeEvent_dutyChanged h c), flags (by decide) (closeEvent_joinChange h c), fun n mem => ?_⟩
    have bits : n ≠ 6 ∧ n ≠ 11 ∧ n ≠ 12 := by
      simp only [List.mem_cons, List.not_mem_nil, or_false] at mem
      omega
    exact flags bits (iff_false_intro (not_closeEvent h c mem))
  case link => exact performClose_lc next offLine
  case demand =>
    intro d
    have claims := performClose_claims next offLine (c := c)
    have unqueued : d.stage ≠ .queued → (reportedNode next c).ae.demand = d := by
      intro other
      have stands : demandLost d = d := if_neg other
      rcases claims with ⟨-, demand⟩ | ⟨-, demand, -⟩
      · exact demand
      · exact demand.trans stands
    refine ⟨fun taken => ?_, fun idle => ?_, fun queued => ?_⟩
    · rw [closedDemand, unqueued (by rw [taken]; decide)]
      exact if_pos taken
    · rw [closedDemand, unqueued (by rw [idle]; decide)]
      exact if_neg (by rw [idle]; decide)
    · rcases claims with ⟨kept, demand⟩ | ⟨lost, demand, raised⟩
      · refine ⟨?_, fun isLost => absurd kept isLost⟩
        rw [closedDemand, demand]
        exact (if_neg (by rw [show c.ae.demand.stage = .queued from queued]; decide)).trans (if_neg (not_not.2 kept)).symm
      · refine ⟨?_, fun _ => raised⟩
        rw [closedDemand, demand, show demandLost c.ae.demand = _ from if_pos queued]
        exact (if_neg (by decide)).trans (if_pos (Nat.ne_of_lt lost)).symm
  case transfer =>
    intro returned failed asks
    have isReturn : returns c = true ↔ returned :=
      (returns_eq_true_iff c).trans (and_congr Iff.rfl (by rw [join]))
    have mayAsk : (c.closeServer ≠ none ∧ failed < 3) ↔ asks := by
      rw [closeServer_ne_none_iff, ← join]
      exact ⟨fun ⟨⟨diverged, some_differ⟩, few⟩ => ⟨diverged, few, some_differ⟩,
        fun ⟨diverged, few, some_differ⟩ => ⟨⟨diverged, some_differ⟩, few⟩⟩
    have stays : ¬ returned → returns c = false := fun no => Bool.eq_false_iff.2 fun yes => no (isReturn.1 yes)
    refine ⟨fun yes => ?_, fun no => ?_, fun doesAsk notServing full => ?_⟩
    · exact congrArg (·.attempts) (performClose_ttu_of_returns (isReturn.2 yes) next)
    · exact (performClose_attempts (stays no) next).imp id fun ⟨may, more⟩ => ⟨mayAsk.1 may, more⟩
    · obtain ⟨chosen, few⟩ := mayAsk.2 doesAsk
      have no : ¬ returned := fun ⟨_, joined⟩ => by
        rw [doesAsk.1] at joined
        exact absurd joined (by decide)
      exact performClose_ttu_of_full (stays no) offLine next notServing full chosen few

end Sys2Proof.CloseResults
end

section
/-! SUPPORT. What a close offers where the queue has room: the ASK, the TAKE, the held frames, the STATUS, each in its place
(R41, R47, R50, R96, R106, R107, R109, R114, R153). -/

namespace Sys2Proof.CloseOffers

open Sys2Proof.Machine Sys2Proof.Safety Sys2Proof.Laws Sys2Proof.Terms Sys2Proof.Offers Sys2Proof.Timers Sys2Proof.Link
  Sys2Proof.Transfers Sys2Proof.Works Sys2Proof.Devices Sys2Proof.RoundClose
open Sys2Proof.Serving hiding askAnswered transferFramesSent
open Sys2Proof.Closing hiding witnessedClose
open Sys2Proof.CloseLaws hiding sameJournalSameState
open Sys2Proof.CloseResults hiding markClosesRound

/-! The node's own STATUS (R8, R11, R12, R153). -/

theorem highByte_eq (w : Word16) : highByte w = BitVec.ofNat 16 (w.toNat / 256) := by
  refine BitVec.eq_of_toNat_eq ?_
  have := w.isLt
  rw [Panel.toNat_highByte, BitVec.toNat_ofNat]
  omega

theorem lowByte_eq (w : Word16) : lowByte w = BitVec.ofNat 16 (w.toNat % 256) := by
  refine BitVec.eq_of_toNat_eq ?_
  rw [Panel.toNat_lowByte, BitVec.toNat_ofNat]
  omega

theorem isolating_eq_true_iff (s : State) : s.isolating = true ↔ ∃ e ∈ s.ovs.stack, isolatesNow e :=
  Overrides.isolatingPresent_eq_true_iff s.ovs.stack

theorem ownFigures_of_store {s : State} (store : s.role = .store) :
    s.ownFigures =
      [s.ae.latched.ch3, some s.announcedCapacity, some (highByte (s.profileWord 13)), some (lowByte (s.profileWord 13)),
        some (highByte (s.profileWord 14)), some (lowByte (s.profileWord 14)), some (s.profileWord 15)] := by
  unfold State.ownFigures
  rw [store]

theorem ownFigures_of_flare {s : State} (flare : s.role = .flare) :
    s.ownFigures = [some s.announcedBurn, s.ae.latched.ch0] := by
  unfold State.ownFigures
  rw [flare]

/-- What the STATUS reads of a node. -/
theorem ownStatus_of_same {s t : State} (role : t.role = s.role) (digest : t.ae.digest = s.ae.digest)
    (latched : t.ae.latched = s.ae.latched) (ovs : t.ovs = s.ovs) (eiu : t.eiu = s.eiu) (image : t.pp.image = s.pp.image) :
    t.ownStatus = s.ownStatus := by
  unfold State.ownStatus State.ownFigures State.announcedCapacity State.announcedBurn State.isolating State.dutyAllowed
    State.profileWord
  rw [role, digest, latched, ovs, eiu, image]

/-! Offers with room, no frame on the line. -/

/-- An admitted STATUS offered with no frame on the line, where there is room or another waits (R29, R30). -/
theorem offerFrame_status_of_room {s : State} {q : QueuedFrame} (admitted : admits s.ae.join s.lc.muted q.body = true)
    (status : ofClass .status q = true) (offLine : s.lc.onLine = none)
    (room : s.lc.queue.length < 8 ∨ ∃ x ∈ s.lc.queue, ofClass .status x = true) :
    (offerFrame q s).2 = requeued s ((s.lc.queue.filter fun x => !ofClass .status x) ++ [q]) := by
  by_cases waits : ∃ x ∈ s.lc.queue, ofClass .status x = true
  · have offered := offerFrame_replaces admitted status (by rw [waitingFrames_of_offLine offLine]; exact waits)
    rw [waitingFrames_of_offLine offLine] at offered
    exact congrArg (·.2) offered
  · have none_waits : ∀ x ∈ s.lc.queue, ofClass .status x = false := fun x mem =>
      Bool.eq_false_iff.2 fun isStatus => waits ⟨x, mem, isStatus⟩
    have all : (s.lc.queue.filter fun x => !ofClass .status x) = s.lc.queue :=
      List.filter_eq_self.2 fun x mem => by rw [none_waits x mem]; rfl
    have offered := offerFrame_status_tail admitted (of_decide_eq_true status) none_waits (room.resolve_right waits)
    rw [← requeued_tail, waitingFrames_of_offLine offLine] at offered
    rw [all]
    exact congrArg (·.2) offered

/-- The queue replaced. -/
def withQueue (queue : List QueuedFrame) (s : State) : State := s.setLc { s.lc with queue }

section

variable {s : State} (rounds : s.ae.join = .joined ∨ s.ae.join = .diverged) (unmuted : s.lc.muted = false)
  (offLine : s.lc.onLine = none) (room : s.lc.queue.length < 8)

include rounds unmuted room

theorem offerPlain_take_of_room (action : DutyAction) :
    offerPlain (.duty action) s = withQueue (s.lc.queue ++ [newFrame (.duty action) .ae]) s :=
  congrArg (·.2) (offerFrame_ordinary_tail (q := newFrame (.duty action) .ae) (admits_of_inRounds rounds unmuted _) rfl room)

include offLine

theorem offerPlain_held_of_room (f : HeldFrame) :
    offerPlain (heldBody f) s = withQueue (behindHead (newFrame (heldBody f) .ae) s.lc.queue) s := by
  have head : frameClass (newFrame (heldBody f) .ae).body = .head := by cases f <;> rfl
  have offered := offerFrame_head_of_room (admits_of_inRounds rounds unmuted _) head room
  rw [waitingFrames_of_offLine offLine, requeued_of_offLine offLine] at offered
  exact congrArg (·.2) offered

theorem offerPlain_status_of_room (b : StatusBody) :
    offerPlain (.status b) s =
      withQueue ((s.lc.queue.filter fun q => !ofClass .status q) ++ [newFrame (.status b) .ae]) s :=
  (offerFrame_status_of_room (q := newFrame (.status b) .ae) (admits_of_inRounds rounds unmuted _) rfl offLine
    (.inl room)).trans (requeued_of_offLine offLine _)

end

/-- The held frames in front of the waiting ones, each behind the heads before it (R29, R47). -/
def reoffered (hold : List HeldFrame) (queue : List QueuedFrame) : List QueuedFrame :=
  hold.foldl (fun w f => behindHead (newFrame (heldBody f) .ae) w) queue

theorem length_reoffered (hold : List HeldFrame) (queue : List QueuedFrame) :
    (reoffered hold queue).length = queue.length + hold.length := by
  induction hold generalizing queue with
  | nil => rfl
  | cons f rest ih =>
    have step : reoffered (f :: rest) queue = reoffered rest (behindHead (newFrame (heldBody f) .ae) queue) := rfl
    rw [step, ih, Inputs.length_behindHead, List.length_cons]
    omega

theorem foldl_offerPlain_of_room {hold : List HeldFrame} {s : State} (rounds : s.ae.join = .joined ∨ s.ae.join = .diverged)
    (unmuted : s.lc.muted = false) (offLine : s.lc.onLine = none) (room : s.lc.queue.length + hold.length ≤ 8) :
    hold.foldl (fun s f => offerPlain (heldBody f) s) s = withQueue (reoffered hold s.lc.queue) s := by
  induction hold generalizing s with
  | nil => rfl
  | cons f rest ih =>
    rw [List.length_cons] at room
    have hasRoom : s.lc.queue.length < 8 := by omega
    rw [List.foldl_cons, offerPlain_held_of_room rounds unmuted offLine hasRoom, ih]
    · rfl
    · exact rounds
    · exact unmuted
    · exact offLine
    · change (behindHead (newFrame (heldBody f) .ae) s.lc.queue).length + rest.length ≤ 8
      rw [Inputs.length_behindHead]
      omega

/-- The hold offered again, with room for all of it. -/
theorem reofferHold_of_room {s : State} (rounds : s.ae.join = .joined ∨ s.ae.join = .diverged)
    (unmuted : s.lc.muted = false) (offLine : s.lc.onLine = none) (room : s.lc.queue.length + s.ae.hold.length ≤ 8) :
    reofferHold s = withQueue (reoffered s.ae.hold s.lc.queue) (withHeld [] s.ae.latched s) :=
  foldl_offerPlain_of_room (s := withHeld [] s.ae.latched s) rounds unmuted offLine room

/-- The figures latched and the STATUS offered, with room. -/
theorem latchAndReport_of_room {s : State} (rounds : s.ae.join = .joined ∨ s.ae.join = .diverged)
    (unmuted : s.lc.muted = false) (offLine : s.lc.onLine = none) (room : s.lc.queue.length < 8) :
    latchAndReport s =
      withQueue ((s.lc.queue.filter fun q => !ofClass .status q) ++
        [newFrame (.status (withHeld s.ae.hold s.smp.smoothed s).ownStatus) .ae]) (withHeld s.ae.hold s.smp.smoothed s) :=
  offerPlain_status_of_room (s := withHeld s.ae.hold s.smp.smoothed s) rounds unmuted offLine room _

/-! The TTU's notice, with the queue it leaves. -/

/-- The queue, the TTU and TRANSFER-FAILED changed, and no other flag. -/
structure Told (s u : State) (after : TransferUnit × List QueuedFrame) (failed : Prop) : Prop where
  shape : u = { s with lc := { s.lc with queue := after.2 }, ttu := after.1, pp := { s.pp with flags := u.pp.flags } }
  flags : ∀ n, n ≠ 6 → u.pp.flags.getLsbD n = s.pp.flags.getLsbD n
  failure : u.pp.flags.getLsbD 6 = true ↔ s.pp.flags.getLsbD 6 = true ∨ failed

theorem told_of_unfailed {s u : State} {after : TransferUnit × List QueuedFrame}
    (shape : u = { s with lc := { s.lc with queue := after.2 }, ttu := after.1 }) : Told s u after False where
  shape := by rw [shape]
  flags n _ := by rw [shape]
  failure := by rw [shape]; exact (or_false _).symm ▸ Iff.rfl

/-- What the first two steps of the notice leave of the TTU and of a queue with no frame on the line (R114). -/
def transferEnded (ttu : TransferUnit) (queue : List QueuedFrame) : TransferUnit × List QueuedFrame :=
  match ttu.phase with
  | .idle => (ttu, queue)
  | .asked _ _ | .loading _ _ _ _ _ _ => (idleTransfer (ttu.attempts + 1), queue.map (unfollowed isAsk))
  | .serving _ _ _ _ _ _ =>
    ({ ttu with phase := .idle }, (queue.filter fun q => !(q.tracked && isBlock q.body)).map (unfollowed isBlock))

theorem told_noticed {s : State} (offLine : s.lc.onLine = none) :
    Told s (noticed s) (transferEnded s.ttu s.lc.queue) (asking s.ttu.phase = true) := by
  have front : frontFrames s.lc = [] := by
    unfold frontFrames
    rw [offLine]
    rfl
  have failed : Told s (attemptFailed s) (idleTransfer (s.ttu.attempts + 1), s.lc.queue.map (unfollowed isAsk)) True := by
    refine ⟨rfl, fun n other => getLsbD_withFlag_other other, ?_⟩
    exact iff_of_true (getLsbD_withFlag_same s.pp.flags .transferFailed) (.inr trivial)
  unfold noticed transferEnded
  cases phase : s.ttu.phase with
  | idle => simpa [asking] using told_of_unfailed (s := s) (u := s) (after := (s.ttu, s.lc.queue)) rfl
  | asked => simpa [asking] using failed
  | loading => simpa [asking] using failed
  | serving =>
    have ends : servingOver s = { s with
        lc := { s.lc with queue := (s.lc.queue.filter fun q => !(q.tracked && isBlock q.body)).map (unfollowed isBlock) }
        ttu := { s.ttu with phase := .idle } } := by
      unfold servingOver
      rw [waitingFrames_of_offLine offLine, front]
      rfl
    simpa [asking] using told_of_unfailed (s := s)
      (after := ({ s.ttu with phase := .idle },
        (s.lc.queue.filter fun q => !(q.tracked && isBlock q.body)).map (unfollowed isBlock))) ends

theorem length_transferEnded (ttu : TransferUnit) (queue : List QueuedFrame) :
    (transferEnded ttu queue).2.length ≤ queue.length := by
  unfold transferEnded
  cases ttu.phase with
  | idle => exact Nat.le_refl _
  | serving =>
    rw [List.length_map]
    exact List.length_filter_le ..
  | _ => exact Nat.le_of_eq (List.length_map ..)

theorem Told.trans_unfailed {s u w : State} {first second : TransferUnit × List QueuedFrame} {failed : Prop}
    (h : Told s u first failed) (k : Told u w second False) : Told s w second failed where
  shape := by
    have shape := k.shape
    generalize w.pp.flags = flags at shape
    rw [shape, h.shape]
  flags n other := (k.flags n other).trans (h.flags n other)
  failure := by rw [k.failure, or_false, h.failure]

theorem Told.congr {s u : State} {after : TransferUnit × List QueuedFrame} {failed failed' : Prop}
    (h : Told s u after failed) (same : failed ↔ failed') : Told s u after failed' where
  shape := h.shape
  flags := h.flags
  failure := h.failure.trans (or_congr Iff.rfl same)

/-- The ASK behind the queue, the TTU ASKED, where a station is asked (R107). -/
def transferAsked (server : Option Address) (ended : TransferUnit × List QueuedFrame) : TransferUnit × List QueuedFrame :=
  match server with
  | none => ended
  | some a =>
    ({ ended.1 with phase := .asked a (ended.1.attempts + 1) }, ended.2 ++ [askFrame a (ended.1.attempts + 1)])

/-- The station asked: none after a third failure (R107). -/
def serverAsked (server : Option Address) (attempts : Nat) : Option Address := if attempts < 3 then server else none

theorem told_askChosen {s : State} (rounds : s.ae.join = .joined ∨ s.ae.join = .diverged) (unmuted : s.lc.muted = false)
    (idle : s.ttu.phase = .idle) (room : s.lc.queue.length < 8) (server : Option Address) :
    Told s (askChosen server s) (transferAsked (serverAsked server s.ttu.attempts) (s.ttu, s.lc.queue)) False := by
  by_cases few : s.ttu.attempts < 3
  · have may : serverAsked server s.ttu.attempts = server := if_pos few
    rw [may]
    cases server with
    | none => exact told_of_unfailed rfl
    | some a =>
      rw [askChosen_of_may idle few, offerAsk_of_room (admits_of_inRounds rounds unmuted _) room]
      exact told_of_unfailed rfl
  · have mayNot : serverAsked server s.ttu.attempts = none := if_neg few
    rw [askChosen_of_exhausted (Nat.le_of_not_lt few), mayNot]
    exact told_of_unfailed rfl

/-- The TTU and the queue behind the notice's first two steps (R103, R114). -/
def noticeEnded (returned : Bool) (ttu : TransferUnit) (queue : List QueuedFrame) : TransferUnit × List QueuedFrame :=
  if returned = true then (idleTransfer 0, queue.map (unfollowed isAsk)) else transferEnded ttu queue

theorem told_closeNotice {s : State} (rounds : s.ae.join = .joined ∨ s.ae.join = .diverged) (unmuted : s.lc.muted = false)
    (offLine : s.lc.onLine = none) (room : s.lc.queue.length < 8) {returned : Bool} {server : Option Address}
    (unasked : returned = true → server = none) :
    Told s (closeNotice returned server s)
      (transferAsked (serverAsked server (noticeEnded returned s.ttu s.lc.queue).1.attempts)
        (noticeEnded returned s.ttu s.lc.queue))
      (asking s.ttu.phase = true ∧ returned = false) := by
  cases isReturn : returned with
  | true =>
    have no_server := unasked isReturn
    subst no_server
    have none_asked : ∀ n, serverAsked none n = none := fun n => ite_self _
    have ended : Told s (attemptEnd s) (idleTransfer 0, s.lc.queue.map (unfollowed isAsk)) False := told_of_unfailed rfl
    rw [none_asked]
    exact ended.congr (by simp)
  | false =>
    have ended := told_noticed offLine
    have ttu : (noticed s).ttu = (transferEnded s.ttu s.lc.queue).1 := congrArg (·.ttu) ended.shape
    have queue : (noticed s).lc.queue = (transferEnded s.ttu s.lc.queue).2 := congrArg (·.lc.queue) ended.shape
    have asks := told_askChosen (s := noticed s) (by rw [noticed_ae]; exact rounds) (by rw [noticed_muted]; exact unmuted)
      (noticed_phase s) (by rw [queue]; exact Nat.lt_of_le_of_lt (length_transferEnded ..) room) server
    rw [ttu, queue] at asks
    rw [closeNotice_of_stays]
    exact (ended.trans_unfailed asks).congr (by simp)

/-! The close with room. -/

section

variable {c : State} (next : Word16) (rounds : c.ae.join = .joined ∨ c.ae.join = .diverged) (unmuted : c.lc.muted = false)
  (offLine : c.lc.onLine = none) (room : c.lc.queue.length + c.ae.hold.length + 3 ≤ 8)

/-- The queue without a MARK. -/
def unmarked (c : State) : List QueuedFrame := c.lc.queue.filter fun q => decide (q.body ≠ .mark)

theorem length_unmarked (c : State) : (unmarked c).length ≤ c.lc.queue.length := List.length_filter_le ..

/-- The TTU and the queue behind the notice, and behind the ASK. -/
def endedAt (c : State) : TransferUnit × List QueuedFrame := noticeEnded (returns c) c.ttu (unmarked c)

def askedAt (c : State) : TransferUnit × List QueuedFrame :=
  transferAsked (serverAsked c.closeServer (endedAt c).1.attempts) (endedAt c)

/-- The conditions of the TAKE behind a close: the journal is empty (R48, R96). -/
def takesAt (c : State) : Prop :=
  c.closeResult.state.offer = true ∧ c.role = .flare ∧ (c.profileWord 0).getLsbD 2 = true ∧
    eligible (entryOf c.closeResult.state.table c.address) = true ∧
    (∃ a, c.closeResult.state.duty = some a ∧ a ≠ c.address) ∧ ∀ q ∈ (askedAt c).2, q.body ≠ .duty .take

/-- The queue behind the TAKE. -/
noncomputable def tookAt (c : State) : List QueuedFrame :=
  open Classical in if takesAt c then (askedAt c).2 ++ [newFrame (.duty .take) .ae] else (askedAt c).2

/-- The queue behind all frames of the close, its STATUS at the tail. -/
noncomputable def closedQueue (c : State) (b : StatusBody) : List QueuedFrame :=
  ((reoffered c.ae.hold (tookAt c)).filter fun q => !ofClass .status q) ++ [newFrame (.status b) .ae]

theorem length_askedAt (c : State) : (askedAt c).2.length ≤ c.lc.queue.length + 1 := by
  have ended : (endedAt c).2.length ≤ c.lc.queue.length := by
    unfold endedAt noticeEnded
    split
    · rw [List.length_map]
      exact length_unmarked c
    · exact (length_transferEnded ..).trans (length_unmarked c)
  unfold askedAt transferAsked
  split
  · exact ended.trans (Nat.le_succ _)
  · rw [List.length_append, List.length_singleton]
    exact Nat.succ_le_succ ended

include offLine in
theorem handedNode_lc : (handedNode next c).lc = { c.lc with queue := unmarked c } := restedNode_queue next offLine

theorem handedNode_join : (handedNode next c).ae.join = c.closeJoin := by
  rw [handedNode_ae (h := c) (c := c) next rfl]
  rfl

include rounds unmuted offLine room

theorem told_noticedNode :
    Told (handedNode next c) (noticedNode next c) (askedAt c) (asking c.ttu.phase = true ∧ returns c = false) := by
  have lc := handedNode_lc next offLine
  have join := handedNode_join next (c := c)
  have hasRoom : (unmarked c).length < 8 := by
    have := length_unmarked c
    omega
  have told := told_closeNotice (s := handedNode next c) (by rw [join]; exact closeJoin_of_rounds rounds)
    (by rw [lc]; exact unmuted) (by rw [lc]; exact offLine) (by rw [lc]; exact hasRoom) (closeServer_of_returns c)
  rw [handedNode_ttu, show (handedNode next c).lc.queue = unmarked c from congrArg (·.queue) lc] at told
  exact told

theorem mayTake_noticedNode :
    ((noticedNode next c).ae.committed.offer = true ∧ (noticedNode next c).mayTake = true) ↔ takesAt c := by
  have told := told_noticedNode next rounds unmuted offLine room
  have handed := handedNode_ae (h := c) (c := c) next rfl
  have shape := told.shape
  have ae : (noticedNode next c).ae = (handedNode next c).ae := congrArg (·.ae) shape
  have committed : (noticedNode next c).ae.committed = c.closeResult.state := by rw [ae, handed]; rfl
  have join : (noticedNode next c).ae.join = c.closeJoin := by rw [ae, handed]; rfl
  have journal : (noticedNode next c).ae.journal = [] := by rw [ae, handed]; rfl
  have rested := restedNode_shape (h := c) (c := c) next rfl
  have role : (noticedNode next c).role = c.role := by rw [shape]; exact congrArg (·.role) rested
  have address : (noticedNode next c).address = c.address := by rw [shape]; exact congrArg (·.address) rested
  have image : (noticedNode next c).profileWord 0 = c.profileWord 0 := by
    unfold State.profileWord
    rw [shape]
    exact congrArg (fun t => imageWord t.pp.image 0) rested
  have queue : (noticedNode next c).lc.queue = (askedAt c).2 := by rw [shape]
  rw [mayTake_eq_true_iff, State.ownEntry, committed, join, journal, role, address, image, queue]
  have inRounds := closeJoin_of_rounds rounds
  constructor
  · rintro ⟨offer, -, flare, allowed, eligible, another, none_queued, -⟩
    exact ⟨offer, flare, allowed, eligible, another, none_queued⟩
  · rintro ⟨offer, flare, allowed, eligible, another, none_queued⟩
    exact ⟨offer, inRounds, flare, allowed, eligible, another, none_queued, List.not_mem_nil⟩

theorem takenNode_of_room : takenNode next c = withQueue (tookAt c) (noticedNode next c) := by
  have told := told_noticedNode next rounds unmuted offLine room
  have queue : (noticedNode next c).lc.queue = (askedAt c).2 := by rw [told.shape]
  have handed := handedNode_ae (h := c) (c := c) next rfl
  have ae : (noticedNode next c).ae = (handedNode next c).ae := congrArg (·.ae) told.shape
  have takes := mayTake_noticedNode next rounds unmuted offLine room
  have stays : withQueue (askedAt c).2 (noticedNode next c) = noticedNode next c := by rw [← queue]; rfl
  by_cases does : takesAt c
  · obtain ⟨offer, may⟩ := takes.2 does
    have took : tookAt c = (askedAt c).2 ++ [newFrame (.duty .take) .ae] := if_pos does
    have join : (noticedNode next c).ae.join = c.closeJoin := by rw [ae, handed]; rfl
    have muted : (noticedNode next c).lc.muted = false := by
      rw [told.shape, handedNode_lc next offLine]
      exact unmuted
    have hasRoom : (noticedNode next c).lc.queue.length < 8 := by
      have := length_askedAt c
      rw [queue]
      omega
    rw [takenNode, if_pos offer, automaticTake, if_pos may,
      offerPlain_take_of_room (by rw [join]; exact closeJoin_of_rounds rounds) muted hasRoom, queue, took]
  · have took : tookAt c = (askedAt c).2 := if_neg does
    rw [took, stays, takenNode]
    split
    next offer => exact if_neg fun may => does (takes.1 ⟨offer, may⟩)
    next => rfl

omit rounds unmuted offLine room in
theorem length_tookAt (c : State) : (tookAt c).length ≤ c.lc.queue.length + 2 := by
  have := length_askedAt c
  unfold tookAt
  split
  · rw [List.length_append, List.length_singleton]
    omega
  · omega

theorem reportedNode_of_room :
    reportedNode next c =
      withQueue (closedQueue c (withHeld [] c.smp.smoothed (noticedNode next c)).ownStatus)
        (withHeld [] c.smp.smoothed (noticedNode next c)) := by
  have told := told_noticedNode next rounds unmuted offLine room
  have handed := handedNode_ae (h := c) (c := c) next rfl
  have ae : (noticedNode next c).ae = (handedNode next c).ae := congrArg (·.ae) told.shape
  have inRounds : (noticedNode next c).ae.join = .joined ∨ (noticedNode next c).ae.join = .diverged := by
    have join : (noticedNode next c).ae.join = c.closeJoin := by rw [ae, handed]; rfl
    rw [join]
    exact closeJoin_of_rounds rounds
  have hold : (noticedNode next c).ae.hold = c.ae.hold := by rw [ae, handed]; rfl
  have smp : (noticedNode next c).smp = c.smp := by
    rw [told.shape]
    exact handedNode_smp next c
  have muted : (noticedNode next c).lc.muted = false := by
    rw [told.shape, handedNode_lc next offLine]
    exact unmuted
  have line : (noticedNode next c).lc.onLine = none := by
    rw [told.shape, handedNode_lc next offLine]
    exact offLine
  have took := length_tookAt c
  let taken := withQueue (tookAt c) (noticedNode next c)
  let latched := (noticedNode next c).ae.latched
  let offered := withQueue (reoffered c.ae.hold (tookAt c)) (withHeld [] latched (noticedNode next c))
  have reoffer : reofferHold taken = offered := by
    have exact_room := reofferHold_of_room (s := taken) inRounds muted line
      (by change (tookAt c).length + (noticedNode next c).ae.hold.length ≤ 8; rw [hold]; omega)
    rw [show taken.ae.hold = c.ae.hold from hold] at exact_room
    exact exact_room
  have report := latchAndReport_of_room (s := offered) inRounds muted line (by
    change (reoffered c.ae.hold (tookAt c)).length < 8
    rw [length_reoffered]
    omega)
  rw [show offered.smp = c.smp from smp] at report
  rw [reportedNode, takenNode_of_room next rounds unmuted offLine room, reoffer, report]
  rfl

/-! The parts of the node behind it. -/

theorem reportedNode_ae_of_room : (reportedNode next c).ae = (restedNode next c).ae := by
  have told := congrArg (·.ae) (told_noticedNode next rounds unmuted offLine room).shape
  rw [reportedNode_of_room next rounds unmuted offLine room]
  exact congrArg (fun a : AllocationEngine => { a with hold := [], latched := c.smp.smoothed }) told

theorem performClose_ttu_of_room : (performClose next c).ttu = (askedAt c).1 := by
  have told := congrArg (·.ttu) (told_noticedNode next rounds unmuted offLine room).shape
  rw [performClose_ttu, reportedNode_of_room next rounds unmuted offLine room]
  exact told

theorem performClose_lc_of_room :
    (performClose next c).lc = { c.lc with queue := closedQueue c (performClose next c).ownStatus } := by
  have told := (told_noticedNode next rounds unmuted offLine room).shape
  have reported := reportedNode_of_room next rounds unmuted offLine room
  have image : ∀ t : State, t = { handedNode next c with
      lc := t.lc, ttu := t.ttu, pp := { (handedNode next c).pp with flags := t.pp.flags } } →
      t.pp.image = (handedNode next c).pp.image := fun t same => congrArg (·.pp.image) same
  have lc : (noticedNode next c).lc = { c.lc with queue := (askedAt c).2 } := by
    have lc := congrArg (·.lc) told
    rw [handedNode_lc next offLine] at lc
    exact lc
  have reads : (performClose next c).ownStatus = (withHeld [] c.smp.smoothed (noticedNode next c)).ownStatus := by
    rw [performClose_shape, reported]
    exact ownStatus_of_same rfl rfl rfl rfl rfl rfl
  have performed : (performClose next c).lc = (reportedNode next c).lc := congrArg (·.lc) (performClose_shape next c)
  rw [performed, reads, reported]
  exact congrArg (fun l : LinkController => { l with
    queue := closedQueue c (withHeld [] c.smp.smoothed (noticedNode next c)).ownStatus }) lc

theorem performClose_demand_of_room : (performClose next c).ae.demand =
    demandAnswered (performClose next c).ownEntry.verdict c.ae.demand := by
  have demand : (reportedNode next c).ae.demand = c.ae.demand := by
    rw [reportedNode_ae_of_room next rounds unmuted offLine room, restedNode_ae (h := c) next rfl]
    rfl
  have entry : (performClose next c).ownEntry = (reportedNode next c).ownEntry := by
    rw [performClose_shape]
    rfl
  rw [entry, ← demand]
  exact congrArg (·.demand) (performClose_ae next c)

theorem performClose_announced_of_room : (performClose next c).ae.announced = c.ae.announced := by
  rw [performClose_ae, reportedNode_ae_of_room next rounds unmuted offLine room, restedNode_ae (h := c) next rfl]
  rfl

/-- The flags of a transfer and of a demand: TRANSFER-FAILED of the notice, nothing else. -/
theorem performClose_flags_of_room {n : Nat} (bit : n = 6 ∨ n = 12) :
    (performClose next c).pp.flags.getLsbD n = true ↔
      c.pp.flags.getLsbD n = true ∨ n = 6 ∧ asking c.ttu.phase = true ∧ returns c = false := by
  have told := told_noticedNode next rounds unmuted offLine room
  have closed : (performClose next c).pp = (closeEvents c.ae c.closeResult.written (reportedNode next c)).pp := by
    rw [performClose_eq, demandClosed_eq]
    rfl
  have reported : (reportedNode next c).pp = (noticedNode next c).pp :=
    congrArg (·.pp) (reportedNode_of_room next rounds unmuted offLine room)
  have handed : (handedNode next c).pp.flags.getLsbD n = c.pp.flags.getLsbD n := by
    have rested := restedNode_pp (h := c) (c := c) next rfl
    rw [show (handedNode next c).pp = (devicesNode next c c).pp from rested]
    exact (deviceWork_notices (handedBase next c.closeResult.state (closeSetpoint next c) c)).flags n (by omega)
  have events : (performClose next c).pp.flags.getLsbD n = true ↔ (noticedNode next c).pp.flags.getLsbD n = true := by
    rw [closed, getLsbD_closeEvents, reported]
    rcases bit with rfl | rfl <;> simp
  rw [events]
  rcases bit with rfl | rfl
  · rw [told.failure, handed]
    exact or_congr Iff.rfl (and_iff_right rfl).symm
  · rw [told.flags 12 (by decide), handed]
    simp

end

/-! What the delivery of the MARK leaves of the link. -/

theorem takesMark_discards {s h : State} {i : Instr} {round : Word16} (takes : takesMark s h i round) :
    h.lc.counters.discards = s.lc.counters.discards := by
  rcases takes with ⟨chars, framingError, f, rfl, -, -, -, -, rfl⟩ | ⟨l, q, rest, first, rfl, -, -, -, rfl⟩ <;> rfl

/-- The own STATUS, by the role. -/
theorem ownStatus_spec (u : State) :
    let high := fun k => BitVec.ofNat 16 ((u.profileWord k).toNat / 256)
    let low := fun k => BitVec.ofNat 16 ((u.profileWord k).toNat % 256)
    let shutIn := ∃ e ∈ u.ovs.stack, isolatesNow e
    let b := u.ownStatus
    (b.flame = true ↔ u.role = .flare ∧ u.eiu.flame = true) ∧
    (b.dutyAllowed = true ↔ u.role = .flare ∧ (u.profileWord 0).getLsbD 2 = true) ∧
    (u.role = .store → ∃ capacity : Word16, (shutIn → capacity = 0) ∧ (¬ shutIn → capacity = u.profileWord 12) ∧
      b.figures = [u.ae.latched.ch3, some capacity, some (high 13), some (low 13), some (high 14), some (low 14),
        some (u.profileWord 15)]) ∧
    (u.role = .flare → ∃ burn : Word16, (u.eiu.flame = true → ¬ shutIn → burn = u.profileWord 16) ∧
      ((u.eiu.flame = false ∨ shutIn) → burn = 0) ∧ b.figures = [some burn, u.ae.latched.ch0]) := by
  intro high low shutIn b
  have isolating := isolating_eq_true_iff u
  refine ⟨by simp [b, State.ownStatus], by simp [b, State.ownStatus, State.dutyAllowed], fun store => ?_, fun flare => ?_⟩
  · refine ⟨u.announcedCapacity, fun isShut => if_pos (isolating.2 isShut), fun notShut => if_neg (mt isolating.1 notShut), ?_⟩
    have figures : b.figures = u.ownFigures := rfl
    rw [figures, ownFigures_of_store store, highByte_eq, highByte_eq, lowByte_eq, lowByte_eq]
  · refine ⟨u.announcedBurn, fun flame notShut => ?_, fun none_burns => ?_, ownFigures_of_flare flare⟩
    · have calm : u.isolating = false := Bool.eq_false_iff.2 (mt isolating.1 notShut)
      rw [State.announcedBurn, flame, calm]
      rfl
    · rw [State.announcedBurn]
      rcases none_burns with dark | isShut
      · rw [dark]
        rfl
      · rw [isolating.2 isShut, Bool.not_true, Bool.and_false]
        rfl

/-- Settles O16: the STATUS by the role; then the notice, the ASK, the TAKE, the hold and the STATUS in their order. -/
theorem closeOffersFrames : Obligations.CloseOffersFrames := by
  unfold Obligations.CloseOffersFrames
  refine ⟨fun u => ?status, fun s h i next closes muted room => ?close⟩
  case status =>
    intro high low shutIn latched b
    obtain ⟨flame, allowed, store, flare⟩ := ownStatus_spec u
    have figures : b.figures = u.ownFigures := rfl
    refine ⟨rfl, rfl, rfl, flame, allowed, fun producer => ?_, store, fun consumer => ?_, flare⟩
    · rw [figures, State.ownFigures, producer]
    · rw [figures, State.ownFigures, consumer]
  case close =>
    have execution := exec_closesRound closes
    have discards := takesMark_discards closes.1
    have unmutedH := (takesMark_muted closes.1).trans muted
    obtain ⟨now, lc, rfl, offLine⟩ := closesRound_shape closes
    obtain ⟨-, rounds, -⟩ := closes
    let h : State := { s with now, lc }
    let c : State := { h with lc := { lc with counters := { lc.counters with roundSlips := slips next h } } }
    let t := performClose next c
    rw [show slipped next { s with now, lc } = c from slipped_eq_slips next h, settle_eq_afterFailures] at execution
    have join : t.ae.join = c.closeJoin := congrArg (·.join) (performClose_engine (h := c) (c := c) next rfl)
    have committed : t.ae.committed = c.closeResult.state := (performClose_committed next c).1
    have lc : t.lc = { c.lc with queue := closedQueue c t.ownStatus } :=
      performClose_lc_of_room next rounds unmutedH offLine room
    have ttu : t.ttu = (askedAt c).1 := performClose_ttu_of_room next rounds unmutedH offLine room
    refine ⟨t, execution, ?_⟩
    intro returned _ unmarked ended server asked takes took
    have returned_iff : returns c = true ↔ returned := (returns_eq_true_iff c).trans (and_congr Iff.rfl (by rw [join]))
    have ended_eq : ended = endedAt c := by
      refine (if_congr returned_iff.symm rfl ?_ : ended = noticeEnded (returns c) c.ttu unmarked)
      unfold transferEnded
      change _ = match s.ttu.phase with
        | .idle => _ | .asked _ _ | .loading _ _ _ _ _ _ => _ | .serving _ _ _ _ _ _ => _
      cases s.ttu.phase <;> rfl
    have server_eq : server = serverAsked c.closeServer (endedAt c).1.attempts := by
      have may : (t.ae.join = .diverged ∧ ended.1.attempts < 3) ↔
          ((endedAt c).1.attempts < 3 ∧ c.closeJoin = .diverged) := by
        rw [join, ended_eq]
        exact and_comm
      exact (if_congr may rfl rfl).trans (ite_and ..)
    have asked_eq : asked = askedAt c := by
      have same : asked = transferAsked server ended := by
        unfold transferAsked
        cases isServer : server with
        | none => simp only [asked, isServer]
        | some a => simp only [asked, isServer]; rfl
      rw [same, server_eq, ended_eq]
      rfl
    have took_eq : took = tookAt c := by
      have does : takes ↔ takesAt c := by
        rw [takesAt, ← committed, ← asked_eq]
        exact Iff.rfl
      rw [tookAt, ← asked_eq]
      by_cases yes : takes
      · exact (if_pos yes).trans (if_pos (does.1 yes)).symm
      · exact (if_neg yes).trans (if_neg (mt does.2 yes)).symm
    refine ⟨ttu.trans (congrArg (·.1) asked_eq.symm), ?queue, ?discards,
      performClose_announced_of_room next rounds unmutedH offLine room,
      performClose_demand_of_room next rounds unmutedH offLine room, ?failed, ?notTaken⟩
    case queue =>
      rw [took_eq]
      exact congrArg (·.queue) lc
    case discards => exact (congrArg (·.counters.discards) lc).trans discards
    case failed =>
      rw [performClose_flags_of_room (c := c) next rounds unmutedH offLine room (.inl rfl), ← returned_iff, Bool.not_eq_true]
      exact or_congr Iff.rfl (and_iff_right rfl)
    case notTaken =>
      rw [performClose_flags_of_room (c := c) next rounds unmutedH offLine room (.inr rfl)]
      exact or_iff_left fun failed => absurd failed.1 (by decide)

end Sys2Proof.CloseOffers
end

section
/-! SUPPORT. The load of a snapshot: the node it leaves, part by part, and its STATUS (R76, R85, R86, R94, R112). -/

namespace Sys2Proof.Loads

open Sys2Proof.Machine Sys2Proof.Safety Sys2Proof.Laws Sys2Proof.Terms Sys2Proof.Offers Sys2Proof.Timers Sys2Proof.Works
  Sys2Proof.Devices
open Sys2Proof.Link hiding frameStartSendsHead collisionRule ownFrameSentAndEnds peerFrameEnds markWithoutClose
open Sys2Proof.Transfers hiding addressClashMutes blocksTaken attemptFails thirdFailureRejoins
open Sys2Proof.Serving hiding askAnswered transferFramesSent
open Sys2Proof.CloseLaws hiding sameJournalSameState
open Sys2Proof.CloseOffers hiding closeOffersFrames

/-! An offer before an event or after it. -/

theorem withFlag_comm (flags : Word16) (e e' : EventFlag) :
    withFlag (withFlag flags e) e' = withFlag (withFlag flags e') e := by
  refine BitVec.eq_of_getLsbD_eq fun n _ => ?_
  simp only [getLsbD_withFlag, Bool.or_right_comm]

theorem raiseEvent_comm (e e' : EventFlag) (s : State) : raiseEvent e (raiseEvent e' s) = raiseEvent e' (raiseEvent e s) :=
  congrArg (fun flags => s.setPp { s.pp with flags }) (withFlag_comm s.pp.flags e' e)

theorem passes_raiseEvent (e : EventFlag) : Passes (raiseEvent e) where
  lc _ := rfl
  ttu _ := rfl
  join _ := rfl
  setLc _ _ := rfl
  setTtu _ _ := rfl
  raise s e' := raiseEvent_comm e e' s
  demand _ := rfl
  announce _ := rfl
  hold _ _ := rfl

theorem offerFrame_raiseEvent (q : QueuedFrame) (e : EventFlag) (s : State) :
    (offerFrame q (raiseEvent e s)).2 = raiseEvent e (offerFrame q s).2 :=
  congrArg (·.2) (offerFrame_change (passes_raiseEvent e) q s)

theorem offerFrame_raiseIf (q : QueuedFrame) (c : Bool) (e : EventFlag) (s : State) :
    (offerFrame q (raiseIf c e s)).2 = raiseIf c e (offerFrame q s).2 := by
  cases c with
  | false => rfl
  | true => exact offerFrame_raiseEvent q e s

theorem offerFrame_raiseMoved (q : QueuedFrame) (before : AllocationEngine) (s : State) :
    (offerFrame q (raiseMoved before s)).2 = raiseMoved before (offerFrame q s).2 := by
  have work := (queueWork_offerFrame q s).toQueueFrame
  have committed : (offerFrame q s).2.ae.committed = s.ae.committed := congrArg (·.committed) work.ae
  have ownBurn : (offerFrame q s).2.ae.ownBurn = s.ae.ownBurn := congrArg (·.ownBurn) work.ae
  have grant : grantMoved s.role s.address before (offerFrame q s).2.ae = grantMoved s.role s.address before s.ae := by
    unfold grantMoved
    rw [committed, ownBurn]
  rw [raiseMoved, offerFrame_raiseIf, offerFrame_raiseIf, offerFrame_raiseIf, raiseMoved, work.role, work.address, grant,
    committed]

/-! The results of a load handed on. -/

/-- The node as the load has it, in what PLANT-TRIP-ISOLATE neither reads nor changes. -/
def loadDress (a : AllocationEngine) (lead : Bool) (s : State) : State :=
  { s with
    ttu := idleTransfer 0
    ae := { a with round := s.ae.round, plantTrip := s.ae.plantTrip }
    vd := { s.vd with lead } }

theorem stackPasses_loadDress (a : AllocationEngine) (lead : Bool) : StackPasses (loadDress a lead) where
  ovs _ := rfl
  round _ := rfl
  applied _ := rfl
  pp _ := rfl
  withStack _ _ := rfl
  raise _ _ := rfl

section

variable (body : List Byte) (digest : Word16) (s : State)

/-- The setpoint that a load hands on (R85). -/
def loadSetpoint : Word16 :=
  match s.role with
  | .producer | .store => s.profileWord 2
  | .consumer => grantedDrawOf (loadedState body).queue s.address
  | .flare => BitVec.ofNat 16 (placedBurn (loadedPlacement body).1 s.address)

/-- Whether the loaded state gives the node the lead duty (R94). -/
def loadLead : Bool := decide ((loadedState body).duty = some s.address)

/-- The node to which the loaded trips are handed. -/
def loadBase : State :=
  withStack
    { s with ae := { s.ae with committed := loadedState body }, vd := { s.vd with baseSetpoint := loadSetpoint body s } }
    s.ovs.stack

/-- The same with PLANT-TRIP-ISOLATE in step (R76). -/
abbrev tripNode : State := plantTripReconcile (loadBase body s)

theorem handResults_loaded :
    handResults ((s.setTtu (idleTransfer 0)).setAe (s.loadedEngine body digest)) =
      loadDress (s.loadedEngine body digest) (loadLead body s) (loadBase body s) := by
  let loaded := (s.setTtu (idleTransfer 0)).setAe (s.loadedEngine body digest)
  have setpoint : capped loaded.ae.cap loaded.computedSetpoint = loadSetpoint body s := by
    change loaded.computedSetpoint = _
    unfold State.computedSetpoint loadSetpoint
    rw [show loaded.role = s.role from rfl]
    cases s.role <;> rfl
  have lead : loaded.leadGiven = loadLead body s := Bool.and_true _
  change handResults loaded = _
  unfold handResults
  rw [setpoint, lead]
  rfl

theorem plantTripReconcile_loaded :
    plantTripReconcile (handResults ((s.setTtu (idleTransfer 0)).setAe (s.loadedEngine body digest))) =
      loadDress (s.loadedEngine body digest) (loadLead body s) (tripNode body s) := by
  rw [handResults_loaded]
  exact plantTripReconcile_change (stackPasses_loadDress _ _) rfl rfl rfl fun _ => rfl

/-- The node a load leaves, before its events and its STATUS. -/
def latchedNode : State :=
  latch s.smp.smoothed (loadDress (s.loadedEngine body digest) (loadLead body s) (tripNode body s))

/-- The node a load leaves, before it offers its STATUS. -/
def loadedNode : State :=
  raiseMoved s.ae (raiseEvent .joinChange (raiseEvent .transferDone (latchedNode body digest s)))

theorem raises_loadedNode : Raises (latchedNode body digest s) (loadedNode body digest s) := by
  have raised : Raises (latchedNode body digest s)
      (raiseEvent .joinChange (raiseEvent .transferDone (latchedNode body digest s))) := rfl
  exact raised.trans (raises_raiseMoved s.ae _)

theorem tripNode_smp : (tripNode body s).smp = s.smp := by
  exact congrArg (·.smp) (deviceWork_plantTripReconcile (loadBase body s)).shape

theorem loadSnapshot_eq :
    loadSnapshot body digest s =
      (offerFrame (newFrame (.status (loadedNode body digest s).ownStatus) .ae) (loadedNode body digest s)).2 := by
  have smp := tripNode_smp body s
  have reads : (loadedNode body digest s).ownStatus = (latchedNode body digest s).ownStatus := by
    rw [raises_loadedNode body digest s]
    exact ownStatus_of_same rfl rfl rfl rfl rfl rfl
  have reported : latchAndReport (loadDress (s.loadedEngine body digest) (loadLead body s) (tripNode body s)) =
      (offerFrame (newFrame (.status (latchedNode body digest s).ownStatus) .ae) (latchedNode body digest s)).2 := by
    rw [latchAndReport_eq, show (loadDress (s.loadedEngine body digest) (loadLead body s)
      (tripNode body s)).smp = s.smp from smp]
    rfl
  rw [reads, loadedNode, offerFrame_raiseMoved, offerFrame_raiseEvent, offerFrame_raiseEvent, loadSnapshot,
    plantTripReconcile_loaded, reported]

/-! The parts of the node. -/

theorem tripNode_ae : (tripNode body s).ae = { s.ae with
    committed := loadedState body, plantTrip := (tripNode body s).ae.plantTrip, ownLive := (tripNode body s).ae.ownLive } :=
  congrArg (·.ae) (deviceWork_plantTripReconcile (loadBase body s)).shape

theorem loadedNode_ae : (loadedNode body digest s).ae = { s.loadedEngine body digest with
    plantTrip := (tripNode body s).ae.plantTrip, latched := s.smp.smoothed } := by
  have round : (tripNode body s).ae.round = s.ae.round := congrArg (·.round) (tripNode_ae body s)
  rw [raises_loadedNode body digest s]
  change { s.loadedEngine body digest with
    round := (tripNode body s).ae.round, plantTrip := (tripNode body s).ae.plantTrip, latched := s.smp.smoothed } = _
  rw [round]
  rfl

theorem loadedNode_ovs : (loadedNode body digest s).ovs = (tripNode body s).ovs := by
  rw [raises_loadedNode body digest s]
  rfl

theorem loadedNode_vd : (loadedNode body digest s).vd = { (tripNode body s).vd with lead := loadLead body s } := by
  rw [raises_loadedNode body digest s]
  rfl

theorem loadedNode_ttu : (loadedNode body digest s).ttu = idleTransfer 0 := by
  rw [raises_loadedNode body digest s]
  rfl

theorem loadedNode_baseSetpoint : (loadedNode body digest s).vd.baseSetpoint = loadSetpoint body s := by
  rw [loadedNode_vd]
  exact congrArg (·.vd.baseSetpoint) (deviceWork_plantTripReconcile (loadBase body s)).shape

theorem loadedNode_shape : loadedNode body digest s = { s with
    ae := (loadedNode body digest s).ae, ttu := (loadedNode body digest s).ttu, ovs := (loadedNode body digest s).ovs
    vd := (loadedNode body digest s).vd, pp := { s.pp with flags := (loadedNode body digest s).pp.flags } } := by
  have raises := raises_loadedNode body digest s
  have work : tripNode body s = _ := (deviceWork_plantTripReconcile (loadBase body s)).shape
  unfold latchedNode at raises
  generalize tripNode body s = u at raises work
  rw [raises, work]
  rfl

/-- The flags after the load. -/
theorem loadedNode_flags (n : Nat) :
    (loadedNode body digest s).pp.flags.getLsbD n = true ↔ (tripNode body s).pp.flags.getLsbD n = true ∨
      n = 5 ∨ n = 15 ∨ s.ae.committed.duty ≠ (loadedState body).duty ∧ n = 8 ∨
      ¬ (s.ae.committed.trips = 0 ↔ (loadedState body).trips = 0) ∧ n = 7 ∨
      (s.role = .consumer ∧ grantedTierOf s.ae.committed.queue s.address ≠ grantedTierOf (loadedState body).queue s.address ∨
        s.role = .flare ∧ s.ae.ownBurn ≠ placedBurn (loadedPlacement body).1 s.address) ∧ n = 1 := by
  have raised : (raiseEvent .joinChange (raiseEvent .transferDone (latchedNode body digest s))).pp.flags.getLsbD n = true ↔
      (tripNode body s).pp.flags.getLsbD n = true ∨ n = 5 ∨ n = 15 := by
    change (withFlag (withFlag (tripNode body s).pp.flags .transferDone) .joinChange).getLsbD n = true ↔ _
    simp only [getLsbD_withFlag, Bool.or_eq_true, decide_eq_true_iff, or_assoc]
    rfl
  have work := deviceWork_plantTripReconcile (loadBase body s)
  have role : (tripNode body s).role = s.role := congrArg (·.role) work.shape
  have address : (tripNode body s).address = s.address := congrArg (·.address) work.shape
  have moved := getLsbD_raiseMoved s.ae (raiseEvent .joinChange (raiseEvent .transferDone (latchedNode body digest s))) n
  rw [tripsMoved_eq_true_iff, grantMoved_eq_true_iff,
    show (raiseEvent .joinChange (raiseEvent .transferDone (latchedNode body digest s))).role = s.role from role,
    show (raiseEvent .joinChange (raiseEvent .transferDone (latchedNode body digest s))).address = s.address from address,
    raised] at moved
  rw [loadedNode, moved, or_assoc, or_assoc]
  exact Iff.rfl

end

/-! The last block. -/

/-- The settled load: its STATUS offered, and nothing failed. -/
theorem settle_loadSnapshot (body : List Byte) (digest : Word16) (s : State) :
    settle (loadSnapshot body digest s) = loadSnapshot body digest s := by
  refine settle_of_lt ?_
  have idle : (loadedNode body digest s).ttu.phase = .idle := by
    rw [loadedNode_ttu]
    rfl
  have offered := (transferring_offerFrame (newFrame (.status (loadedNode body digest s).ownStatus) .ae)
    (loadedNode body digest s)).of_idle idle
  rw [loadSnapshot_eq, offered, loadedNode_ttu]
  exact Nat.zero_lt_succ 2

/-- Settles O39: the last block loads the snapshot; the node it leaves, part by part. -/
theorem lastBlockLoads : Obligations.LastBlockLoads := by
  unfold Obligations.LastBlockLoads
  intro s chars framingError f attempt count digest bytes ends clear isData phase some_bytes at_most body q entries length crc
    h before loaded p
  let t := loadedNode body digest h
  let u := tripNode body h
  have considered : h.considersBlock f.sender s.address (attempt % 16) = true :=
    (considersBlock_eq_true_iff ..).2 ⟨rfl, .inr ⟨attempt, _, _, _, _, phase, rfl⟩⟩
  have fits : blockFits f.round count count count f.round bytes = true :=
    (blockFits_eq_true_iff ..).2 ⟨rfl, rfl, some_bytes, at_most, fun before => absurd before (Nat.lt_irrefl _)⟩
  have accepted : snapshotAccepted body digest = true := (snapshotAccepted_eq_true_iff ..).2 ⟨entries, length, crc⟩
  have loads : deliverFrame false false f h = loadSnapshot body digest h := by
    rw [deliverFrame_data isData, if_pos considered, dataReceived_of_loading (s := h) phase, if_pos fits, if_pos rfl]
    exact if_pos accepted
  have execution : exec (.frameEnd chars framingError) s =
      .next (offerFrame (newFrame (.status t.ownStatus) .ae) t).2 := by
    rw [exec_frameEnd_peer ends clear, loads, settle_loadSnapshot, loadSnapshot_eq]
  have ae : t.ae = { h.loadedEngine body digest with plantTrip := u.ae.plantTrip, latched := s.smp.smoothed } :=
    loadedNode_ae body digest h
  have vd : t.vd = { u.vd with lead := loadLead body h } := loadedNode_vd body digest h
  have setpoint : t.vd.baseSetpoint = loadSetpoint body h := loadedNode_baseSetpoint body digest h
  have lc : t.lc = h.lc := congrArg (·.lc) (loadedNode_shape body digest h)
  have base : ∀ {n : Nat}, n ≠ 11 → u.pp.flags.getLsbD n = s.pp.flags.getLsbD n := fun other =>
    (deviceWork_plantTripReconcile (loadBase body h)).flags _ other
  have flags := loadedNode_flags body digest h
  refine ⟨t, execution, fun unmuted room => ?room, congrArg (·.join) ae, congrArg (·.digest) ae,
    congrArg (·.committed) ae, congrArg (·.ownBurn) ae, congrArg (·.round) ae, congrArg (·.journal) ae,
    congrArg (·.demand) ae, congrArg (·.lastTier) ae, congrArg (·.hold) ae, congrArg (·.roundTimer) ae,
    congrArg (·.silenceTimer) ae, congrArg (·.announced) ae, congrArg (·.ownLive) ae, congrArg (·.cap) ae,
    congrArg (·.latched) ae, loadedNode_ttu body digest h, setpoint, ?lead, ?devices, ?flags, loadedNode_shape body digest h⟩
  case room =>
    have offLine : t.lc.onLine = none := by rw [lc]; exact ends.1
    have admitted : admits t.ae.join t.lc.muted (newFrame (.status t.ownStatus) .ae).body = true :=
      admits_of_inRounds (.inl (congrArg (·.join) ae)) (by rw [lc]; exact unmuted) _
    have queue : t.lc.queue = s.lc.queue := congrArg (·.queue) lc
    rw [execution, offerFrame_status_of_room admitted rfl offLine (by rw [queue]; exact room), queue]
  case lead =>
    have duty : t.ae.committed.duty = loaded.duty := congrArg (·.committed.duty) ae
    rw [duty]
    exact congrArg (·.lead) vd
  case devices =>
    rw [setpoint]
    have lead := vd.trans (congrArg (fun held => { u.vd with lead := held }) (congrArg (·.lead) vd).symm)
    refine ⟨loadedNode_ovs body digest h, lead, congrArg (·.plantTrip) ae, (flags 11).trans (or_iff_left (by simp))⟩
  case flags =>
    have event : ∀ {n : Nat} {c : Prop}, n ≠ 11 →
        ((n = 5 ∨ n = 15 ∨ before.duty ≠ loaded.duty ∧ n = 8 ∨ ¬ (before.trips = 0 ↔ loaded.trips = 0) ∧ n = 7 ∨
          (s.role = .consumer ∧ grantedTierOf before.queue s.address ≠ grantedTierOf loaded.queue s.address ∨
            s.role = .flare ∧ s.ae.ownBurn ≠ placedBurn p.1 s.address) ∧ n = 1) ↔ c) →
        (t.pp.flags.getLsbD n = true ↔ s.pp.flags.getLsbD n = true ∨ c) := fun {n c} other same => by
      have here := flags n
      rw [base other] at here
      exact here.trans (or_congr Iff.rfl same)
    have ownBurn : t.ae.ownBurn = placedBurn p.1 s.address := congrArg (·.ownBurn) ae
    rw [ownBurn]
    refine ⟨event (by decide) (by simp), event (by decide) (by simp), event (by decide) (by simp),
      event (by decide) (by simp), event (by decide) (by simp), fun n mem => ?_⟩
    have bits : n ≠ 11 ∧ n ≠ 5 ∧ n ≠ 15 ∧ n ≠ 8 ∧ n ≠ 7 ∧ n ≠ 1 := by
      simp only [List.mem_cons, List.not_mem_nil, or_false] at mem
      omega
    obtain ⟨drop, done, join, duty, trip, grant⟩ := bits
    exact event drop (by simp [done, join, duty, trip, grant])

end Sys2Proof.Loads
end

section
/-! SUPPORT. Bytes, words, slots and codes, both ways: what frames and the snapshot are laid out with (R163, R165). -/

namespace Sys2Proof.Bytes

open Sys2Proof.Machine Sys2Proof.Safety Sys2Proof.Readings

/-! Bytes and words. -/

theorem toNat_byteOf {n : Nat} (small : n < 256) : (byteOf n).toNat = n := by
  rw [byteOf, BitVec.toNat_ofNat]
  exact Nat.mod_eq_of_lt small

theorem byteOf_toNat (b : Byte) : byteOf b.toNat = b := (BitVec.ofNat_toNat 8 b).trans (BitVec.setWidth_eq b)

theorem wordOfBytes_extract (w : Word16) : wordOfBytes (w.extractLsb' 8 8) (w.extractLsb' 0 8) = w := by
  have := w.isLt
  refine BitVec.eq_of_toNat_eq ?_
  rw [toNat_wordOfBytes, BitVec.extractLsb'_toNat, BitVec.extractLsb'_toNat, Nat.shiftRight_eq_div_pow,
    Nat.shiftRight_eq_div_pow]
  omega

theorem bytesOfWord_wordOfBytes (hi lo : Byte) : bytesOfWord (wordOfBytes hi lo) = [hi, lo] := by
  rw [bytesOfWord, extractHigh_wordOfBytes, extractLow_wordOfBytes]

@[simp] theorem length_bytesOfWord (w : Word16) : (bytesOfWord w).length = 2 := rfl

@[simp] theorem byteAt_cons_zero (b : Byte) (bytes : List Byte) : byteAt (b :: bytes) 0 = b := rfl

@[simp] theorem byteAt_cons_succ (b : Byte) (bytes : List Byte) (k : Nat) : byteAt (b :: bytes) (k + 1) = byteAt bytes k :=
  List.getD_cons_succ

@[simp] theorem wordAt_bytesOfWord (w : Word16) (rest : List Byte) : wordAt (bytesOfWord w ++ rest) 0 = w :=
  wordOfBytes_extract w

theorem byteAt_append_right {bytes : List Byte} {n : Nat} (length : bytes.length = n) (rest : List Byte) (k : Nat) :
    byteAt (bytes ++ rest) (n + k) = byteAt rest k := by
  subst length
  rw [byteAt, List.getD_append_right _ _ _ _ (Nat.le_add_right ..), Nat.add_sub_cancel_left, byteAt]

theorem wordAt_append_right {bytes : List Byte} {n : Nat} (length : bytes.length = n) (rest : List Byte) (k : Nat) :
    wordAt (bytes ++ rest) (n + k) = wordAt rest k := by
  rw [wordAt, Nat.add_assoc, byteAt_append_right length, byteAt_append_right length, wordAt]

/-- The last two bytes of a list are the word there. -/
theorem take_append_wordAt {bytes : List Byte} {k : Nat} (length : bytes.length = k + 2) :
    bytes.take k ++ bytesOfWord (wordAt bytes k) = bytes := by
  have taken : (bytes.take k).length = k := by rw [List.length_take]; omega
  obtain ⟨hi, lo, last⟩ : ∃ hi lo, bytes.drop k = [hi, lo] :=
    List.length_eq_two.1 (by rw [List.length_drop]; omega)
  have split : bytes = bytes.take k ++ [hi, lo] := by rw [← last, List.take_append_drop]
  have word : wordAt bytes k = wordOfBytes hi lo := by
    conv_lhs => rw [split]
    exact wordAt_append_right taken [hi, lo] 0
  rw [word, bytesOfWord_wordOfBytes, ← split]

theorem wordsOfBytes_flatMap (words : List Word16) : wordsOfBytes (words.flatMap bytesOfWord) = words := by
  induction words with
  | nil => rfl
  | cons w rest ih =>
    change wordOfBytes _ _ :: wordsOfBytes (rest.flatMap bytesOfWord) = _
    rw [ih, wordOfBytes_extract]

theorem flatMap_wordsOfBytes {bytes : List Byte} (even : bytes.length % 2 = 0) :
    (wordsOfBytes bytes).flatMap bytesOfWord = bytes := by
  induction bytes using wordsOfBytes.induct with
  | case1 hi lo rest ih =>
    have evenRest : rest.length % 2 = 0 := by
      rw [List.length_cons, List.length_cons] at even
      omega
    rw [wordsOfBytes, List.flatMap_cons, ih evenRest, bytesOfWord_wordOfBytes]
    rfl
  | case2 b => exact absurd even (by simp)
  | case3 => rfl

theorem length_flatMap_const {α : Type} {f : α → List Byte} {items : List α} {m : Nat}
    (length : ∀ x ∈ items, (f x).length = m) : (items.flatMap f).length = m * items.length := by
  rw [List.length_flatMap, List.map_congr_left length, List.map_const', List.sum_replicate, smul_eq_mul, Nat.mul_comm]

theorem length_flatMap_bytesOfWord (words : List Word16) : (words.flatMap bytesOfWord).length = 2 * words.length :=
  length_flatMap_const fun _ _ => rfl

/-- The k-th record of a list of records of one length. -/
theorem take_drop_flatMap {α : Type} {f : α → List Byte} {m : Nat} {items : List α}
    (length : ∀ x ∈ items, (f x).length = m) (rest : List Byte) {k : Nat} (small : k < items.length) :
    ((items.flatMap f ++ rest).drop (m * k)).take m = f items[k] := by
  induction items generalizing k with
  | nil => exact absurd small (Nat.not_lt_zero k)
  | cons x xs ih =>
    have first : (f x).length = m := length x List.mem_cons_self
    rw [List.flatMap_cons, List.append_assoc]
    cases k with
    | zero => rw [Nat.mul_zero, List.drop_zero, List.take_left' first, List.getElem_cons_zero]
    | succ k =>
      have later := ih (fun y mem => length y (List.mem_cons_of_mem x mem)) (Nat.lt_of_succ_lt_succ small)
      rw [Nat.mul_succ, Nat.add_comm, ← List.drop_drop, List.drop_left' first, later, List.getElem_cons_succ]

/-! Flags. -/

theorem flagBit_lt (b : Bool) : flagBit b < 2 := by cases b <;> decide

theorem getLsbD_flagByte (a b : Bool) :
    (byteOf (flagBit a + 2 * flagBit b)).getLsbD 0 = a ∧ (byteOf (flagBit a + 2 * flagBit b)).getLsbD 1 = b := by
  cases a <;> cases b <;> decide

/-! Figure slots. -/

theorem slotWidths_values (role : Role) : ∀ w ∈ slotWidths role, w = 1 ∨ w = 2 := by
  cases role <;> decide

theorem sum_slotWidths_le (role : Role) : (slotWidths role).sum ≤ 10 := by cases role <;> decide

theorem length_slotWidths_le (role : Role) : (slotWidths role).length ≤ 7 := by cases role <;> decide

theorem roleSlots_values (role : Option Role) : ∀ w ∈ roleSlots role, w = 1 ∨ w = 2 := by
  cases role with
  | none => exact fun _ mem => absurd mem List.not_mem_nil
  | some r => exact slotWidths_values r

theorem sum_roleSlots_le (role : Option Role) : (roleSlots role).sum ≤ 10 := by
  cases role with
  | none => exact Nat.zero_le 10
  | some r => exact sum_slotWidths_le r

theorem length_roleSlots_le (role : Option Role) : (roleSlots role).length ≤ 7 := by
  cases role with
  | none => exact Nat.zero_le 7
  | some r => exact length_slotWidths_le r

theorem length_slotBytes {width : Nat} (suits : width = 1 ∨ width = 2) (v : Word16) : (slotBytes width v).length = width := by
  rcases suits with rfl | rfl <;> rfl

theorem length_slotsBytes {widths : List Nat} (suit : ∀ w ∈ widths, w = 1 ∨ w = 2) (values : List Word16) :
    (slotsBytes widths values).length = widths.sum := by
  induction widths generalizing values with
  | nil => rfl
  | cons w ws ih =>
    obtain ⟨first, others⟩ := List.forall_mem_cons.1 suit
    rw [slotsBytes, List.length_append, length_slotBytes first, ih others, List.sum_cons]

/-- The value that a slot holds. -/
theorem slotValue_slotBytes {width : Nat} (suits : width = 1 ∨ width = 2) {v : Word16} (small : width = 1 → v.toNat < 256)
    (rest : List Byte) :
    (if width = 1 then (byteAt (slotBytes width v ++ rest) 0).setWidth 16 else wordAt (slotBytes width v ++ rest) 0) = v := by
  rcases suits with rfl | rfl
  · have bound := small rfl
    refine BitVec.eq_of_toNat_eq ?_
    change (BitVec.setWidth 16 (BitVec.setWidth 8 v)).toNat = v.toNat
    rw [BitVec.toNat_setWidth, BitVec.toNat_setWidth, Nat.mod_eq_of_lt bound]
    exact Nat.mod_eq_of_lt v.isLt
  · exact wordAt_bytesOfWord v rest

/-- Values come back from the slots they were put in. -/
theorem slotsOfBytes_slotsBytes {widths : List Nat} (suit : ∀ w ∈ widths, w = 1 ∨ w = 2) {values : List Word16}
    (enough : widths.length ≤ values.length) (small : ∀ p ∈ widths.zip values, p.1 = 1 → p.2.toNat < 256)
    (rest : List Byte) :
    slotsOfBytes widths (slotsBytes widths values ++ rest) = values.take widths.length := by
  induction widths generalizing values with
  | nil => rfl
  | cons w ws ih =>
    obtain ⟨first, others⟩ := List.forall_mem_cons.1 suit
    cases values with
    | nil => exact absurd enough (Nat.not_succ_le_zero _)
    | cons v vs =>
      rw [List.zip_cons_cons, List.forall_mem_cons] at small
      obtain ⟨smallFirst, smallOthers⟩ := small
      have value := slotValue_slotBytes first smallFirst (slotsBytes ws vs ++ rest)
      have later := ih others (Nat.le_of_succ_le_succ enough) smallOthers
      rw [slotsBytes, List.append_assoc, slotsOfBytes, List.headD_cons, List.tail_cons, value,
        List.drop_left' (length_slotBytes first v), later, List.length_cons, List.take_succ_cons]

theorem length_slotsOfBytes (widths : List Nat) (bytes : List Byte) :
    (slotsOfBytes widths bytes).length = widths.length := by
  induction widths generalizing bytes with
  | nil => rfl
  | cons w ws ih => rw [slotsOfBytes, List.length_cons, List.length_cons, ih]

theorem byteAt_drop (bytes : List Byte) (n k : Nat) : byteAt (bytes.drop n) k = byteAt bytes (n + k) := by
  rw [byteAt, byteAt, List.getD_eq_getElem?_getD, List.getD_eq_getElem?_getD, List.getElem?_drop]

theorem wordAt_drop (bytes : List Byte) (n k : Nat) : wordAt (bytes.drop n) k = wordAt bytes (n + k) := by
  rw [wordAt, wordAt, byteAt_drop, byteAt_drop, Nat.add_assoc]

/-- The k-th value stands behind the slots before it. -/
theorem getD_slotsOfBytes {widths : List Nat} {k : Nat} (small : k < widths.length) (bytes : List Byte) :
    (slotsOfBytes widths bytes).getD k 0 =
      if widths.getD k 0 = 1 then (byteAt bytes (widths.take k).sum).setWidth 16 else wordAt bytes (widths.take k).sum := by
  induction widths generalizing k bytes with
  | nil => exact absurd small (Nat.not_lt_zero k)
  | cons w ws ih =>
    cases k with
    | zero => rfl
    | succ k =>
      rw [slotsOfBytes, List.getD_cons_succ, List.getD_cons_succ, ih (Nat.lt_of_succ_lt_succ small), byteAt_drop, wordAt_drop,
        List.take_succ_cons, List.sum_cons]

/-! Presence bits. -/

theorem presenceBits_lt (figures : List (Option Word16)) : presenceBits figures < 2 ^ figures.length := by
  induction figures with
  | nil => decide
  | cons f fs ih =>
    have := flagBit_lt f.isSome
    rw [presenceBits, List.length_cons, Nat.pow_succ]
    omega

theorem figuresOfSlots_presenceBits (figures : List (Option Word16)) :
    figuresOfSlots (figures.map (·.getD 0)) (presenceBits figures) = figures := by
  induction figures with
  | nil => rfl
  | cons f fs ih =>
    have bits := flagBit_lt f.isSome
    have low : (flagBit f.isSome + 2 * presenceBits fs) % 2 = flagBit f.isSome := by omega
    have high : (flagBit f.isSome + 2 * presenceBits fs) / 2 = presenceBits fs := by omega
    rw [presenceBits, List.map_cons, figuresOfSlots, low, high, ih]
    cases f <;> rfl

theorem length_figuresOfSlots (values : List Word16) (bits : Nat) :
    (figuresOfSlots values bits).length = values.length := by
  induction values generalizing bits with
  | nil => rfl
  | cons v vs ih => rw [figuresOfSlots, List.length_cons, List.length_cons, ih]

/-- The k-th figure is the k-th value where its presence bit is set. -/
theorem getD_figuresOfSlots {values : List Word16} {k : Nat} (small : k < values.length) (bits : Nat) :
    (figuresOfSlots values bits).getD k none = if bits.testBit k = true then some (values.getD k 0) else none := by
  induction values generalizing k bits with
  | nil => exact absurd small (Nat.not_lt_zero k)
  | cons v vs ih =>
    cases k with
    | zero =>
      refine if_congr ?_ rfl rfl
      rw [Nat.testBit_zero, decide_eq_true_eq]
    | succ k =>
      rw [figuresOfSlots, List.getD_cons_succ, List.getD_cons_succ, ih (Nat.lt_of_succ_lt_succ small), Nat.testBit_succ]

/-! Codes, both ways (R163, R164). -/

theorem roleOfCode_eq_some_iff (n : Nat) (r : Role) : roleOfCode n = some r ↔ n = roleCode (some r) := by
  constructor
  · unfold roleOfCode
    split <;> rintro ⟨⟩ <;> rfl
  · rintro rfl
    cases r <;> rfl

theorem announcedGoverning_eq_some_iff (n : Nat) (g : GoverningKind) :
    announcedGoverning n = some g ↔ g ≠ .none ∧ n = governingCode g := by
  constructor
  · unfold announcedGoverning
    split <;> rintro ⟨⟩ <;> exact ⟨by decide, rfl⟩
  · rintro ⟨some_kind, rfl⟩
    cases g with
    | none => exact absurd rfl some_kind
    | base => rfl
    | override k => cases k <;> rfl

theorem dutyActionOfCode_eq_some_iff (n : Nat) (a : DutyAction) : dutyActionOfCode n = some a ↔ n = dutyActionCode a := by
  constructor
  · unfold dutyActionOfCode
    split <;> rintro ⟨⟩ <;> rfl
  · rintro rfl
    cases a <;> rfl

theorem blockStatusOfCode_eq_some_iff (n : Nat) (b : BlockStatus) : blockStatusOfCode n = some b ↔ n = blockStatusCode b := by
  constructor
  · unfold blockStatusOfCode
    split <;> rintro ⟨⟩ <;> rfl
  · rintro rfl
    cases b <;> rfl

theorem addressOfCode_eq_some_iff (n : Nat) (a : Address) : addressOfCode n = some a ↔ n = a.val := by
  unfold addressOfCode
  constructor
  · split
    next small =>
      rintro ⟨⟩
      rfl
    next => rintro ⟨⟩
  · rintro rfl
    exact dif_pos a.isLt

theorem roleOfCode_ne_none_iff (n : Nat) : roleOfCode n ≠ none ↔ 1 ≤ n ∧ n ≤ 4 := by
  constructor
  · intro named
    obtain ⟨r, code⟩ := Option.ne_none_iff_exists'.1 named
    rw [(roleOfCode_eq_some_iff n r).1 code]
    cases r <;> decide
  · rintro ⟨low, high⟩
    interval_cases n <;> simp [roleOfCode]

theorem announcedGoverning_ne_none_iff (n : Nat) : announcedGoverning n ≠ none ↔ 1 ≤ n ∧ n ≤ 10 := by
  constructor
  · intro named
    obtain ⟨g, code⟩ := Option.ne_none_iff_exists'.1 named
    obtain ⟨some_kind, rfl⟩ := (announcedGoverning_eq_some_iff n g).1 code
    cases g with
    | none => exact absurd rfl some_kind
    | base => decide
    | override k => cases k <;> decide
  · rintro ⟨low, high⟩
    interval_cases n <;> simp [announcedGoverning]

theorem dutyActionOfCode_ne_none_iff (n : Nat) : dutyActionOfCode n ≠ none ↔ 1 ≤ n ∧ n ≤ 3 := by
  constructor
  · intro named
    obtain ⟨a, code⟩ := Option.ne_none_iff_exists'.1 named
    rw [(dutyActionOfCode_eq_some_iff n a).1 code]
    cases a <;> decide
  · rintro ⟨low, high⟩
    interval_cases n <;> simp [dutyActionOfCode]

theorem blockStatusOfCode_ne_none_iff (n : Nat) : blockStatusOfCode n ≠ none ↔ n ≤ 2 := by
  constructor
  · intro named
    obtain ⟨b, code⟩ := Option.ne_none_iff_exists'.1 named
    rw [(blockStatusOfCode_eq_some_iff n b).1 code]
    cases b <;> decide
  · intro high
    interval_cases n <;> simp [blockStatusOfCode]

theorem roleCode_le (r : Option Role) : roleCode r ≤ 4 := by
  cases r with
  | none => decide
  | some r => cases r <;> decide

theorem governingCode_le (g : GoverningKind) : governingCode g ≤ 10 := by
  cases g with
  | none => decide
  | base => decide
  | override k => cases k <;> decide

theorem dutyActionCode_le (a : DutyAction) : dutyActionCode a ≤ 3 := by cases a <;> decide

theorem blockStatusCode_le (b : BlockStatus) : blockStatusCode b ≤ 2 := by cases b <;> decide

end Sys2Proof.Bytes
end

section
/-! SUPPORT. Frames as characters, both ways: what a payload carries, which characters are a good frame (R18, R20, R163,
R164). -/

namespace Sys2Proof.Frames

open Sys2Proof.Machine Sys2Proof.Safety Sys2Proof.Bytes Sys2Proof.Readings

/-! What a payload carries. -/

/-- What a STATUS payload of a role and a governing kind says. -/
def statusOf (p : List Byte) (role : Role) (governing : GoverningKind) : StatusBody :=
  { role, digest := wordAt p 1, governing, flame := (byteAt p 4).getLsbD 0, dutyAllowed := (byteAt p 4).getLsbD 1,
    figures := figuresOfSlots (slotsOfBytes (slotWidths role) (p.drop 6)) (byteAt p 5).toNat }

/-- The station that a BLOCK payload is for, and the attempt it answers. -/
def blockAddressee (p : List Byte) : Address := Fin.ofNat 16 ((byteAt p 0).toNat / 16)

def blockAttempt (p : List Byte) : Nat := (byteAt p 0).toNat % 16

/-- The contents that a payload of a kind carries (R163, R164). -/
inductive Carries (p : List Byte) : Nat → FrameBody → Prop
  | status (role : Role) (governing : GoverningKind) (ofRole : (byteAt p 0).toNat = roleCode (some role))
    (announced : governing ≠ .none) (ofGoverning : (byteAt p 3).toNat = governingCode governing)
    (length : p.length = 6 + (slotWidths role).sum) : Carries p 0x1 (.status (statusOf p role governing))
  | mark (length : p.length = 0) : Carries p 0x2 .mark
  | claim (low : 4 ≤ p.length) (high : p.length ≤ 12) (even : p.length % 2 = 0) :
    Carries p 0x3
      (.claim { tier := (byteAt p 0).toNat, minMethane := (byteAt p 1).toNat, draws := wordsOfBytes (p.drop 2) })
  | yield (length : p.length = 1) : Carries p 0x4 (.yield (byteAt p 0).toNat)
  | duty (action : DutyAction) (length : p.length = 1) (code : (byteAt p 0).toNat = dutyActionCode action) :
    Carries p 0x5 (.duty action)
  | announce (role : Role) (length : p.length = 1) (code : (byteAt p 0).toNat = roleCode (some role)) :
    Carries p 0x6 (.announce role)
  | trip (length : p.length = 0) : Carries p 0x7 .trip
  | clear (target : Address) (length : p.length = 1) (code : (byteAt p 0).toNat = target.val) : Carries p 0x8 (.clear target)
  | ask (server : Address) (length : p.length = 2) (code : (byteAt p 0).toNat = server.val) :
    Carries p 0x9 (.ask server (byteAt p 1).toNat)
  | header (status : BlockStatus) (index : (byteAt p 1).toNat = 0) (length : p.length = 8)
    (code : (byteAt p 2).toNat = blockStatusCode status) :
    Carries p 0xA
      (.blockHeader (blockAddressee p) (blockAttempt p) status (byteAt p 3).toNat (wordAt p 4) (wordAt p 6))
  | data (first : 1 ≤ (byteAt p 1).toNat) (last : (byteAt p 1).toNat ≤ 23) (low : 3 ≤ p.length) (high : p.length ≤ 24) :
    Carries p 0xA (.blockData (blockAddressee p) (blockAttempt p) (byteAt p 1).toNat (p.drop 2))

theorem carries_of_parseStatus {p : List Byte} {body : FrameBody} (parsed : parseStatus p = some body) : Carries p 1 body := by
  unfold parseStatus at parsed
  split at parsed
  next role governing ofRole ofGoverning =>
    obtain ⟨length, same⟩ := Option.ite_none_right_eq_some.1 parsed
    obtain ⟨announced, code⟩ := (announcedGoverning_eq_some_iff ..).1 ofGoverning
    cases same
    exact .status role governing ((roleOfCode_eq_some_iff ..).1 ofRole) announced code length
  next => exact absurd parsed (by simp)

theorem carries_of_parseBlock {p : List Byte} {body : FrameBody} (parsed : parseBlock p = some body) :
    Carries p 0xA body := by
  unfold parseBlock at parsed
  dsimp only at parsed
  split at parsed
  next index =>
    obtain ⟨length, mapped⟩ := Option.ite_none_right_eq_some.1 parsed
    obtain ⟨status, code, rfl⟩ := Option.map_eq_some_iff.1 mapped
    exact .header status index length ((blockStatusOfCode_eq_some_iff ..).1 code)
  next index =>
    obtain ⟨⟨last, low, high⟩, same⟩ := Option.ite_none_right_eq_some.1 parsed
    cases same
    exact .data (Nat.one_le_iff_ne_zero.2 index) last low high

/-- A parsed payload carries what it was parsed to. -/
theorem carries_of_parsePayload {k : Nat} {p : List Byte} {body : FrameBody} (parsed : parsePayload k p = some body) :
    Carries p k body := by
  unfold parsePayload at parsed
  split at parsed
  · exact carries_of_parseStatus parsed
  · obtain ⟨length, same⟩ := Option.ite_none_right_eq_some.1 parsed
    cases same
    exact .mark length
  · obtain ⟨⟨low, high, even⟩, same⟩ := Option.ite_none_right_eq_some.1 parsed
    cases same
    exact .claim low high even
  · obtain ⟨length, same⟩ := Option.ite_none_right_eq_some.1 parsed
    cases same
    exact .yield length
  · obtain ⟨length, mapped⟩ := Option.ite_none_right_eq_some.1 parsed
    obtain ⟨action, code, rfl⟩ := Option.map_eq_some_iff.1 mapped
    exact .duty action length ((dutyActionOfCode_eq_some_iff ..).1 code)
  · obtain ⟨length, mapped⟩ := Option.ite_none_right_eq_some.1 parsed
    obtain ⟨role, code, rfl⟩ := Option.map_eq_some_iff.1 mapped
    exact .announce role length ((roleOfCode_eq_some_iff ..).1 code)
  · obtain ⟨length, same⟩ := Option.ite_none_right_eq_some.1 parsed
    cases same
    exact .trip length
  · obtain ⟨length, mapped⟩ := Option.ite_none_right_eq_some.1 parsed
    obtain ⟨target, code, rfl⟩ := Option.map_eq_some_iff.1 mapped
    exact .clear target length ((addressOfCode_eq_some_iff ..).1 code)
  · obtain ⟨length, mapped⟩ := Option.ite_none_right_eq_some.1 parsed
    obtain ⟨server, code, rfl⟩ := Option.map_eq_some_iff.1 mapped
    exact .ask server length ((addressOfCode_eq_some_iff ..).1 code)
  · exact carries_of_parseBlock parsed
  · exact absurd parsed (by simp)

theorem parsePayload_of_carries {k : Nat} {p : List Byte} {body : FrameBody} (carries : Carries p k body) :
    parsePayload k p = some body := by
  cases carries with
  | status role governing ofRole announced ofGoverning length =>
    change parseStatus p = _
    rw [parseStatus, (roleOfCode_eq_some_iff ..).2 ofRole, (announcedGoverning_eq_some_iff ..).2 ⟨announced, ofGoverning⟩]
    exact if_pos length
  | mark length => exact if_pos length
  | claim low high even => exact if_pos ⟨low, high, even⟩
  | yield length => exact if_pos length
  | duty action length code =>
    exact (if_pos length).trans (congrArg (Option.map _) ((dutyActionOfCode_eq_some_iff ..).2 code))
  | announce role length code =>
    exact (if_pos length).trans (congrArg (Option.map _) ((roleOfCode_eq_some_iff ..).2 code))
  | trip length => exact if_pos length
  | clear target length code =>
    exact (if_pos length).trans (congrArg (Option.map _) ((addressOfCode_eq_some_iff ..).2 code))
  | ask server length code =>
    exact (if_pos length).trans (congrArg (Option.map _) ((addressOfCode_eq_some_iff ..).2 code))
  | header status index length code =>
    exact (if_pos index).trans ((if_pos length).trans (congrArg (Option.map _) ((blockStatusOfCode_eq_some_iff ..).2 code)))
  | data first last low high =>
    exact (if_neg (Nat.one_le_iff_ne_zero.1 first)).trans (if_pos ⟨last, low, high⟩)

/-- Parsing says what a payload carries. -/
theorem parsePayload_eq_some_iff {k : Nat} {p : List Byte} {body : FrameBody} :
    parsePayload k p = some body ↔ Carries p k body := ⟨carries_of_parsePayload, parsePayload_of_carries⟩

theorem Carries.kind {p : List Byte} {k : Nat} {body : FrameBody} (carries : Carries p k body) : kindCode body = k := by
  cases carries <;> rfl

/-! A payload that carries a frame but a STATUS is the one a sender writes. -/

theorem blockByte_eq (p : List Byte) : byteOf (16 * (blockAddressee p).val + blockAttempt p % 16) = byteAt p 0 := by
  have small := (byteAt p 0).isLt
  have addressee : (blockAddressee p).val = (byteAt p 0).toNat / 16 := Nat.mod_eq_of_lt (by omega)
  have whole : 16 * (blockAddressee p).val + blockAttempt p % 16 = (byteAt p 0).toNat := by
    rw [addressee, blockAttempt]
    omega
  rw [whole, byteOf_toNat]

/-- The bytes of a payload of one byte. -/
theorem singleton_of_code {p : List Byte} {n : Nat} (length : p.length = 1) (code : (byteAt p 0).toNat = n) :
    [byteOf n] = p := by
  obtain ⟨b, rfl⟩ := List.length_eq_one_iff.1 length
  rw [← code, byteAt_cons_zero, byteOf_toNat]

theorem Carries.payload {p : List Byte} {k : Nat} {body : FrameBody} (carries : Carries p k body)
    (other : ∀ b, body ≠ .status b) : payloadBytes body = p := by
  cases carries with
  | status role governing => exact absurd rfl (other _)
  | mark length => exact (List.eq_nil_of_length_eq_zero length).symm
  | claim low high even =>
    obtain ⟨x, y, rest, rfl⟩ : ∃ x y rest, p = x :: y :: rest := by
      match p, low with
      | x :: y :: rest, _ => exact ⟨x, y, rest, rfl⟩
    have evenRest : rest.length % 2 = 0 := by
      rw [List.length_cons, List.length_cons] at even
      omega
    change byteOf x.toNat :: byteOf y.toNat :: (wordsOfBytes rest).flatMap bytesOfWord = _
    rw [byteOf_toNat, byteOf_toNat, flatMap_wordsOfBytes evenRest]
  | yield length => exact singleton_of_code length rfl
  | duty action length code => exact singleton_of_code length code
  | announce role length code => exact singleton_of_code length code
  | trip length => exact (List.eq_nil_of_length_eq_zero length).symm
  | clear target length code => exact singleton_of_code length code
  | ask server length code =>
    obtain ⟨x, y, rfl⟩ := List.length_eq_two.1 length
    change [byteOf server.val, byteOf y.toNat] = _
    rw [← code, byteOf_toNat, byteAt_cons_zero, byteOf_toNat]
  | header status index length code =>
    match p, length with
    | [x, y, z, c, r, r', d, d'], _ =>
      have zero : y = 0 := BitVec.eq_of_toNat_eq index
      change [byteOf (16 * (blockAddressee _).val + blockAttempt _ % 16), 0, byteOf (blockStatusCode status), byteOf c.toNat] ++
        bytesOfWord (wordOfBytes r r') ++ bytesOfWord (wordOfBytes d d') = _
      rw [blockByte_eq, ← code, byteOf_toNat, byteOf_toNat, bytesOfWord_wordOfBytes, bytesOfWord_wordOfBytes, zero]
      rfl
  | data first last low high =>
    match p, low with
    | x :: y :: rest, _ =>
      change byteOf (16 * (blockAddressee _).val + blockAttempt _ % 16) :: byteOf y.toNat :: rest = _
      rw [blockByte_eq, byteOf_toNat, byteAt_cons_zero]

/-! The payloads that carry a frame. -/

theorem payloadFits_of_carries {p : List Byte} {k : Nat} {body : FrameBody} (carries : Carries p k body) :
    payloadFits k p := by
  cases carries with
  | status role governing ofRole announced ofGoverning length =>
    have code : 1 ≤ governingCode governing := by
      cases governing with
      | none => exact absurd rfl announced
      | base => decide
      | override kind => cases kind <;> decide
    have most := governingCode_le governing
    have byRole : ((byteAt p 0).toNat, p.length) ∈ [(1, 9), (2, 16), (3, 8), (4, 10)] := by
      rw [ofRole, length]
      cases role <;> decide
    exact .inl ⟨rfl, byRole, code.trans_eq ofGoverning.symm, ofGoverning.trans_le most⟩
  | mark length => simp [payloadFits, length]
  | claim low high even =>
    have lengths : p.length = 4 ∨ p.length = 6 ∨ p.length = 8 ∨ p.length = 10 ∨ p.length = 12 := by omega
    simpa [payloadFits] using lengths
  | yield length => simp [payloadFits, length]
  | duty action length code =>
    have low : 1 ≤ dutyActionCode action := by cases action <;> decide
    have high := dutyActionCode_le action
    simpa [payloadFits, length, code] using ⟨low, high⟩
  | announce role length code =>
    have low : 1 ≤ roleCode (some role) := by cases role <;> decide
    have high := roleCode_le (some role)
    simpa [payloadFits, length, code] using ⟨low, high⟩
  | trip length => simp [payloadFits, length]
  | clear target length code =>
    have small := target.isLt
    simpa [payloadFits, length, code] using Nat.le_of_lt_succ small
  | ask server length code =>
    have small := server.isLt
    simpa [payloadFits, length, code] using Nat.le_of_lt_succ small
  | header status index length code =>
    have high := blockStatusCode_le status
    simpa [payloadFits, length, code, index] using high
  | data first last low high =>
    simpa [payloadFits] using Or.inr ⟨first, last, low, high⟩

theorem carries_of_payloadFits {p : List Byte} {k : Nat} (fits : payloadFits k p) : ∃ body, Carries p k body := by
  have inRange : ∀ {n : Nat}, n ≤ 15 → ∃ a : Address, n = a.val := fun small => ⟨⟨_, Nat.lt_succ_of_le small⟩, rfl⟩
  have role : ∀ {n : Nat}, 1 ≤ n → n ≤ 4 → ∃ r : Role, n = roleCode (some r) := fun {n} low high =>
    (Option.ne_none_iff_exists'.1 ((roleOfCode_ne_none_iff n).2 ⟨low, high⟩)).imp fun r => (roleOfCode_eq_some_iff n r).1
  rcases fits with ⟨rfl, byRole, low, high⟩ | ⟨rfl, lengths⟩ | ⟨rfl, length⟩ | ⟨rfl, length, low, high⟩ |
    ⟨rfl, length, low, high⟩ | ⟨rfl | rfl, length⟩ | ⟨rfl, length, high⟩ | ⟨rfl, length, high⟩ |
    ⟨rfl, ⟨index, length, high⟩ | ⟨first, last, low, high⟩⟩
  · obtain ⟨governing, code⟩ := Option.ne_none_iff_exists'.1 ((announcedGoverning_ne_none_iff _).2 ⟨low, high⟩)
    obtain ⟨announced, ofGoverning⟩ := (announcedGoverning_eq_some_iff ..).1 code
    have roles : ∃ r : Role, (byteAt p 0).toNat = roleCode (some r) ∧ p.length = 6 + (slotWidths r).sum := by
      simp only [List.mem_cons, List.not_mem_nil, or_false, Prod.mk.injEq] at byRole
      rcases byRole with ⟨code, length⟩ | ⟨code, length⟩ | ⟨code, length⟩ | ⟨code, length⟩
      · exact ⟨.producer, code, length⟩
      · exact ⟨.store, code, length⟩
      · exact ⟨.consumer, code, length⟩
      · exact ⟨.flare, code, length⟩
    obtain ⟨r, ofRole, length⟩ := roles
    exact ⟨_, .status r governing ofRole announced ofGoverning length⟩
  · simp only [List.mem_cons, List.not_mem_nil, or_false] at lengths
    exact ⟨_, .claim (by omega) (by omega) (by omega)⟩
  · exact ⟨_, .yield length⟩
  · obtain ⟨action, code⟩ := Option.ne_none_iff_exists'.1 ((dutyActionOfCode_ne_none_iff _).2 ⟨low, high⟩)
    exact ⟨_, .duty action length ((dutyActionOfCode_eq_some_iff ..).1 code)⟩
  · obtain ⟨r, code⟩ := role low high
    exact ⟨_, .announce r length code⟩
  · exact ⟨_, .mark length⟩
  · exact ⟨_, .trip length⟩
  · obtain ⟨target, code⟩ := inRange high
    exact ⟨_, .clear target length code⟩
  · obtain ⟨server, code⟩ := inRange high
    exact ⟨_, .ask server length code⟩
  · obtain ⟨status, code⟩ := Option.ne_none_iff_exists'.1 ((blockStatusOfCode_ne_none_iff _).2 high)
    exact ⟨_, .header status index length ((blockStatusOfCode_eq_some_iff ..).1 code)⟩
  · exact ⟨_, .data first last low high⟩

/-! A sender's payload carries its frame. -/

theorem toNat_blockByte {a : Address} {attempt : Nat} : (byteOf (16 * a.val + attempt % 16)).toNat = 16 * a.val + attempt % 16 := by
  have small := a.isLt
  exact toNat_byteOf (by omega)

theorem blockAddressee_sent {a : Address} {attempt : Nat} (rest : List Byte) :
    blockAddressee (byteOf (16 * a.val + attempt % 16) :: rest) = a := by
  have small := a.isLt
  refine Fin.ext ?_
  change (byteOf (16 * a.val + attempt % 16)).toNat / 16 % 16 = a.val
  rw [toNat_blockByte]
  omega

theorem blockAttempt_sent {a : Address} {attempt : Nat} (fits : attempt < 16) (rest : List Byte) :
    blockAttempt (byteOf (16 * a.val + attempt % 16) :: rest) = attempt := by
  change (byteOf (16 * a.val + attempt % 16)).toNat % 16 = attempt
  rw [toNat_blockByte]
  omega

theorem Carries.as {p : List Byte} {k : Nat} {body body' : FrameBody} (carries : Carries p k body) (same : body = body') :
    Carries p k body' := same ▸ carries

theorem carries_status {b : StatusBody} (canSend : sendable (.status b)) :
    Carries (payloadBytes (.status b)) 0x1 (.status b) := by
  obtain ⟨announced, slots, narrow⟩ := canSend
  have widths := slotWidths_values b.role
  let values := b.figures.map (·.getD 0)
  let p := payloadBytes (.status b)
  have rolesFit := roleCode_le (some b.role)
  have kindsFit := governingCode_le b.governing
  have bits : presenceBits b.figures < 256 := by
    have few : b.figures.length ≤ 8 := slots.trans_le ((length_slotWidths_le b.role).trans (by decide))
    exact (presenceBits_lt b.figures).trans_le (Nat.pow_le_pow_right (Nat.zero_lt_succ 1) few)
  have ofRole : (byteAt p 0).toNat = roleCode (some b.role) := toNat_byteOf (by omega)
  have ofGoverning : (byteAt p 3).toNat = governingCode b.governing := toNat_byteOf (by omega)
  have digest : wordAt p 1 = b.digest := wordOfBytes_extract b.digest
  have presence : (byteAt p 5).toNat = presenceBits b.figures := toNat_byteOf bits
  have flags : (byteAt p 4).getLsbD 0 = b.flame ∧ (byteAt p 4).getLsbD 1 = b.dutyAllowed :=
    getLsbD_flagByte b.flame b.dutyAllowed
  have enough : (slotWidths b.role).length ≤ values.length := by
    rw [List.length_map, slots]
  have small : ∀ pair ∈ (slotWidths b.role).zip values, pair.1 = 1 → pair.2.toNat < 256 := by
    intro pair mem
    rw [List.zip_map_right] at mem
    obtain ⟨⟨width, figure⟩, inside, rfl⟩ := List.mem_map.1 mem
    intro one
    cases figure with
    | none => exact Nat.zero_lt_succ 255
    | some v => exact narrow _ inside one v rfl
  have held : slotsOfBytes (slotWidths b.role) (p.drop 6) = values := by
    have back := slotsOfBytes_slotsBytes widths enough small []
    rw [List.append_nil, List.take_of_length_le (by rw [List.length_map, slots])] at back
    exact back
  have whole : statusOf p b.role b.governing = b := by
    rw [statusOf, digest, flags.1, flags.2, held, presence, figuresOfSlots_presenceBits]
  have length : p.length = 6 + (slotWidths b.role).sum := by
    rw [← length_slotsBytes widths values, Nat.add_comm]
    rfl
  have carried := Carries.status b.role b.governing ofRole announced ofGoverning length
  rw [whole] at carried
  exact carried

/-- What a sender writes carries what it meant. -/
theorem carries_payloadBytes {body : FrameBody} (canSend : sendable body) : Carries (payloadBytes body) (kindCode body) body := by
  cases body with
  | status b => exact carries_status canSend
  | mark => exact .mark rfl
  | claim b =>
    obtain ⟨tier, methane, some_draws, few_draws⟩ := canSend
    have length : (payloadBytes (.claim b)).length = 2 * b.draws.length + 2 :=
      congrArg (· + 2) (length_flatMap_bytesOfWord b.draws)
    have carried := Carries.claim (p := payloadBytes (.claim b)) (by omega) (by omega) (by omega)
    have whole : ({ tier := (byteOf b.tier).toNat, minMethane := (byteOf b.minMethane).toNat
                    draws := wordsOfBytes (b.draws.flatMap bytesOfWord) } : ClaimBody) = b := by
      rw [toNat_byteOf tier, toNat_byteOf methane, wordsOfBytes_flatMap]
    exact carried.as (congrArg FrameBody.claim whole)
  | yield tier =>
    have carried := Carries.yield (p := payloadBytes (.yield tier)) rfl
    exact carried.as (congrArg FrameBody.yield (toNat_byteOf canSend))
  | duty action => exact .duty action rfl (toNat_byteOf ((dutyActionCode_le action).trans_lt (by decide)))
  | announce role => exact .announce role rfl (toNat_byteOf ((roleCode_le _).trans_lt (by decide)))
  | trip => exact .trip rfl
  | clear target => exact .clear target rfl (toNat_byteOf (target.isLt.trans (by decide)))
  | ask server attempt =>
    have carried := Carries.ask (p := payloadBytes (.ask server attempt)) server rfl
      (toNat_byteOf (server.isLt.trans (by decide)))
    exact carried.as (congrArg (FrameBody.ask server) (toNat_byteOf canSend))
  | blockHeader addressee attempt status count round digest =>
    obtain ⟨attemptFits, countFits⟩ := canSend
    let p := payloadBytes (.blockHeader addressee attempt status count round digest)
    have carried := Carries.header (p := p) status rfl rfl
      (toNat_byteOf ((blockStatusCode_le status).trans_lt (by decide)))
    have station : blockAddressee p = addressee := blockAddressee_sent _
    have number : blockAttempt p = attempt := blockAttempt_sent attemptFits _
    have blocks : (byteAt p 3).toNat = count := toNat_byteOf countFits
    have ofRound : wordAt p 4 = round := wordOfBytes_extract round
    have ofDigest : wordAt p 6 = digest := wordOfBytes_extract digest
    exact carried.as (by rw [station, number, blocks, ofRound, ofDigest])
  | blockData addressee attempt index bytes =>
    obtain ⟨attemptFits, first, last, some_bytes, few_bytes⟩ := canSend
    let p := payloadBytes (.blockData addressee attempt index bytes)
    have place : (byteAt p 1).toNat = index := toNat_byteOf (by omega)
    have length : p.length = bytes.length + 2 := rfl
    have carried := Carries.data (p := p) (by omega) (by omega) (by omega) (by omega)
    have station : blockAddressee p = addressee := blockAddressee_sent _
    have number : blockAttempt p = attempt := blockAttempt_sent attemptFits _
    exact carried.as (by rw [station, number, place]; rfl)

theorem length_payload_le {p : List Byte} {k : Nat} {body : FrameBody} (carries : Carries p k body) : p.length ≤ 24 := by
  cases carries with
  | status role governing ofRole announced ofGoverning length =>
    have := sum_slotWidths_le role
    omega
  | _ => omega

/-! The judgement (R20). -/

theorem judgeFrame_eq_some_iff {chars : List Byte} {framingError : Bool} {f : GoodFrame} :
    judgeFrame chars framingError = some f ↔
      framingError = false ∧ 6 ≤ chars.length ∧ chars.length ≤ 30 ∧ (byteAt chars 3).toNat + 6 = chars.length ∧
        crc16 (chars.take (chars.length - 2)) = wordAt chars (chars.length - 2) ∧
        Carries ((chars.drop 4).take (chars.length - 6)) ((byteAt chars 0).toNat / 16) f.body ∧
        f.sender = Fin.ofNat 16 (byteAt chars 0).toNat ∧ f.round = wordAt chars 1 := by
  rw [← parsePayload_eq_some_iff]
  unfold judgeFrame
  dsimp only
  constructor
  · intro judged
    obtain ⟨whole, judged⟩ := Option.ite_none_left_eq_some.1 judged
    obtain ⟨length, judged⟩ := Option.ite_none_left_eq_some.1 judged
    obtain ⟨crc, judged⟩ := Option.ite_none_left_eq_some.1 judged
    obtain ⟨body, parsed, rfl⟩ := Option.map_eq_some_iff.1 judged
    simp only [not_or, Nat.not_lt, Bool.not_eq_true] at whole
    obtain ⟨noError, low, high⟩ := whole
    exact ⟨noError, low, high, not_not.1 length, not_not.1 crc, parsed, rfl, rfl⟩
  · rintro ⟨noError, low, high, length, crc, parsed, sender, round⟩
    obtain ⟨fs, fr, fb⟩ := f
    dsimp only at parsed sender round
    rw [if_neg (by simp [noError]; omega), if_neg (not_not.2 length), if_neg (not_not.2 crc), parsed, sender, round]
    rfl

theorem judgeFrame_ne_none_iff (chars : List Byte) (framingError : Bool) :
    judgeFrame chars framingError ≠ none ↔ goodChars chars framingError := by
  rw [Option.ne_none_iff_exists']
  constructor
  · rintro ⟨f, judged⟩
    obtain ⟨noError, low, high, length, crc, carries, -, -⟩ := judgeFrame_eq_some_iff.1 judged
    exact ⟨noError, low, high, length, crc, payloadFits_of_carries carries⟩
  · rintro ⟨noError, low, high, length, crc, fits⟩
    obtain ⟨body, carries⟩ := carries_of_payloadFits fits
    exact ⟨⟨_, _, body⟩, judgeFrame_eq_some_iff.2 ⟨noError, low, high, length, crc, carries, rfl, rfl⟩⟩

/-! The characters of a frame. -/

theorem kindCode_lt (body : FrameBody) : kindCode body < 16 := by cases body <;> simp [kindCode]

/-- The characters of a frame, byte by byte. -/
theorem frameText_eq (sender : Address) (round : Word16) (body : FrameBody) :
    frameText sender round body =
      byteOf (16 * kindCode body + sender.val) :: round.extractLsb' 8 8 :: round.extractLsb' 0 8 ::
        byteOf (payloadBytes body).length :: payloadBytes body := rfl

/-- A frame that can be sent is judged good, and comes back unchanged. -/
theorem judgeFrame_frameChars (sender : Address) (round : Word16) {body : FrameBody} (canSend : sendable body) :
    judgeFrame (frameChars sender round body) false = some { sender, round, body } := by
  have carries := carries_payloadBytes canSend
  have few := length_payload_le carries
  have kind := kindCode_lt body
  have station := sender.isLt
  let p := payloadBytes body
  let text := frameText sender round body
  let chars := frameChars sender round body
  have textLength : text.length = p.length + 4 := rfl
  have length : chars.length = p.length + 6 := by
    change (text ++ bytesOfWord (crc16 text)).length = _
    rw [List.length_append, textLength, length_bytesOfWord]
  have header : (byteAt chars 0).toNat = 16 * kindCode body + sender.val := toNat_byteOf (by omega)
  have size : (byteAt chars 3).toNat = p.length := toNat_byteOf (by omega)
  have front : chars.take (chars.length - 2) = text := by
    rw [length]
    exact List.take_left' textLength
  have crc : wordAt chars (chars.length - 2) = crc16 text := by
    rw [length]
    exact (wordAt_append_right textLength (bytesOfWord (crc16 text)) 0).trans (wordAt_bytesOfWord (crc16 text) [])
  have payload : (chars.drop 4).take (chars.length - 6) = p := by
    rw [length]
    exact List.take_left' rfl
  have kindOf : (byteAt chars 0).toNat / 16 = kindCode body := by omega
  have senderOf : sender = Fin.ofNat 16 (byteAt chars 0).toNat := by
    refine Fin.ext ?_
    change sender.val = (byteAt chars 0).toNat % 16
    omega
  have roundOf : round = wordAt chars 1 := (wordOfBytes_extract round).symm
  refine judgeFrame_eq_some_iff.2 ⟨rfl, ?_, ?_, ?_, ?_, ?_, senderOf, roundOf⟩
  · exact length ▸ Nat.le_add_left 6 _
  · exact length ▸ Nat.add_le_add_right few 6
  · exact size ▸ length.symm
  · rw [show (frameChars sender round body).take _ = text from front]
    exact crc.symm
  · rw [show ((frameChars sender round body).drop 4).take _ = p from payload,
      show (byteAt (frameChars sender round body) 0).toNat / 16 = _ from kindOf]
    exact carries

/-- The text of a good frame, from its bytes. -/
theorem header_append_payload {chars : List Byte} (low : 6 ≤ chars.length) :
    byteAt chars 0 :: byteAt chars 1 :: byteAt chars 2 :: byteAt chars 3 :: (chars.drop 4).take (chars.length - 6) =
      chars.take (chars.length - 2) := by
  match chars, low with
  | a :: b :: c :: d :: rest, low =>
    have length : (a :: b :: c :: d :: rest).length - 2 = (rest.length - 2) + 4 := by
      simp only [List.length_cons] at low ⊢
      omega
    rw [length]
    rfl

/-- A good frame but a STATUS is what its sender writes. -/
theorem frameChars_of_judged {chars : List Byte} {framingError : Bool} {f : GoodFrame}
    (judged : judgeFrame chars framingError = some f) (other : ∀ b, f.body ≠ .status b) :
    frameChars f.sender f.round f.body = chars := by
  obtain ⟨-, low, high, size, crc, carries, sender, round⟩ := judgeFrame_eq_some_iff.1 judged
  have payload := carries.payload other
  have kind := carries.kind
  have station : f.sender.val = (byteAt chars 0).toNat % 16 := by rw [sender]; rfl
  have first : byteOf (16 * kindCode f.body + f.sender.val) = byteAt chars 0 := by
    have whole : 16 * kindCode f.body + f.sender.val = (byteAt chars 0).toNat := by omega
    rw [whole, byteOf_toNat]
  have length : byteOf (payloadBytes f.body).length = byteAt chars 3 := by
    have count : (payloadBytes f.body).length = (byteAt chars 3).toNat := by
      rw [payload, List.length_take, List.length_drop]
      omega
    rw [count, byteOf_toNat]
  have text : frameText f.sender f.round f.body = chars.take (chars.length - 2) := by
    rw [frameText_eq, first, length, payload, round, wordAt, extractHigh_wordOfBytes, extractLow_wordOfBytes]
    exact header_append_payload low
  change frameText _ _ _ ++ bytesOfWord (crc16 (frameText _ _ _)) = chars
  rw [text, crc]
  exact take_append_wordAt (by omega)

/-- A byte of the payload, among the characters. -/
theorem byteAt_payload {chars : List Byte} {n k : Nat} (inside : k < n) :
    byteAt ((chars.drop 4).take n) k = byteAt chars (4 + k) := by
  rw [← byteAt_drop, byteAt, byteAt, List.getD_eq_getElem?_getD, List.getD_eq_getElem?_getD,
    List.getElem?_take_of_lt inside]

theorem wordAt_payload {chars : List Byte} {n k : Nat} (inside : k + 1 < n) :
    wordAt ((chars.drop 4).take n) k = wordAt chars (4 + k) := by
  rw [wordAt, byteAt_payload (Nat.lt_of_succ_lt inside), byteAt_payload inside, wordAt, Nat.add_assoc]

/-! A good STATUS. -/

theorem Carries.ofStatus {p : List Byte} {k : Nat} {b : StatusBody} (carries : Carries p k (.status b)) :
    ∃ role governing, (byteAt p 0).toNat = roleCode (some role) ∧ (byteAt p 3).toNat = governingCode governing ∧
      p.length = 6 + (slotWidths role).sum ∧ b = statusOf p role governing := by
  cases carries with
  | status role governing ofRole announced ofGoverning length => exact ⟨role, governing, ofRole, ofGoverning, length, rfl⟩

/-- A slot ends within the slots. -/
theorem sum_take_add_le {widths : List Nat} {k : Nat} (small : k < widths.length) :
    (widths.take k).sum + widths.getD k 0 ≤ widths.sum := by
  induction widths generalizing k with
  | nil => exact absurd small (Nat.not_lt_zero k)
  | cons w ws ih =>
    cases k with
    | zero =>
      rw [List.take_zero, List.sum_nil, Nat.zero_add, List.getD_cons_zero, List.sum_cons]
      exact Nat.le_add_right w _
    | succ k =>
      have later := ih (Nat.lt_of_succ_lt_succ small)
      rw [List.take_succ_cons, List.sum_cons, List.getD_cons_succ, List.sum_cons]
      omega

/-- The k-th figure of a STATUS payload stands behind the slots before it. -/
theorem statusOf_figure {p : List Byte} {role : Role} (governing : GoverningKind) {k : Nat}
    (small : k < (slotWidths role).length) :
    let place := 6 + ((slotWidths role).take k).sum
    (statusOf p role governing).figures.getD k none =
      if (byteAt p 5).getLsbD k = true then
        some (if (slotWidths role).getD k 0 = 1 then (byteAt p place).setWidth 16 else wordAt p place)
      else none := by
  intro place
  have bit : (byteAt p 5).toNat.testBit k = (byteAt p 5).getLsbD k := rfl
  have values : k < (slotsOfBytes (slotWidths role) (p.drop 6)).length := by rw [length_slotsOfBytes]; exact small
  rw [statusOf, getD_figuresOfSlots values, getD_slotsOfBytes small, byteAt_drop, wordAt_drop, bit]

/-- Settles O6: sent frames come back, and a good frame is read off its characters. -/
theorem frameRoundTrip : Obligations.FrameRoundTrip := by
  unfold Obligations.FrameRoundTrip
  refine ⟨fun sender round body => judgeFrame_frameChars sender round, fun chars framingError =>
    ⟨judgeFrame_ne_none_iff chars framingError, fun f judged => ?_⟩⟩
  obtain ⟨-, low, high, size, crc, carries, sender, round⟩ := judgeFrame_eq_some_iff.1 judged
  refine ⟨by rw [sender]; rfl, round, carries.kind, frameChars_of_judged judged, fun b isStatus => ?_⟩
  rw [isStatus] at carries
  obtain ⟨role, governing, ofRole, ofGoverning, length, rfl⟩ := carries.ofStatus
  have payload : 6 + (slotWidths role).sum = chars.length - 6 := by
    rw [← length, List.length_take, List.length_drop]
    omega
  have byte : ∀ {k}, k < 6 + (slotWidths role).sum →
      byteAt ((chars.drop 4).take (chars.length - 6)) k = byteAt chars (4 + k) := fun inside =>
    byteAt_payload (payload ▸ inside)
  have word : ∀ {k}, k + 1 < 6 + (slotWidths role).sum →
      wordAt ((chars.drop 4).take (chars.length - 6)) k = wordAt chars (4 + k) := fun inside =>
    wordAt_payload (payload ▸ inside)
  have figures : (statusOf ((chars.drop 4).take (chars.length - 6)) role governing).figures.length =
      (slotWidths role).length := by
    rw [statusOf, length_figuresOfSlots, length_slotsOfBytes]
  refine ⟨?_, word (by omega), ?_, ?_, ?_, figures, fun k small => ?_⟩
  · rw [← byte (k := 0) (by omega)]
    exact ofRole.symm
  · rw [← byte (k := 3) (by omega)]
    exact ofGoverning.symm
  · exact congrArg (·.getLsbD 0) (byte (k := 4) (by omega))
  · exact congrArg (·.getLsbD 1) (byte (k := 4) (by omega))
  · have inside : k < (slotWidths role).length := small.trans_eq figures
    have ends := sum_take_add_le inside
    have width : (slotWidths role).getD k 0 = 1 ∨ (slotWidths role).getD k 0 = 2 := by
      rw [List.getD_eq_getElem _ _ inside]
      exact slotWidths_values role _ (List.getElem_mem inside)
    have place : 10 + ((slotWidths role).take k).sum = 4 + (6 + ((slotWidths role).take k).sum) := by omega
    change (statusOf _ role governing).figures.getD k none =
      if (byteAt chars 9).getLsbD k = true then
        some (if (slotWidths role).getD k 0 = 1 then (byteAt chars (10 + ((slotWidths role).take k).sum)).setWidth 16
          else wordAt chars (10 + ((slotWidths role).take k).sum))
      else none
    rw [statusOf_figure governing inside, byte (k := 5) (by omega), place]
    rcases width with one | two
    · rw [if_pos one, if_pos one, byte (by omega)]
    · have notOne : (slotWidths role).getD k 0 ≠ 1 := by omega
      rw [if_neg notOne, if_neg notOne, word (by omega)]

end Sys2Proof.Frames
end

section
/-! SUPPORT. The snapshot body, both ways: station records, queue records, the misc record (R99, R165). -/

namespace Sys2Proof.Records

open Sys2Proof.Machine Sys2Proof.Safety Sys2Proof.Bytes Sys2Proof.Readings

/-! Codes and flags as they are loaded. -/

theorem loadedFlag_flagBit (b : Bool) : loadedFlag (flagBit b) = b := by cases b <;> rfl

theorem loadedRole_roleCode (r : Option Role) : loadedRole (roleCode r) = r := by
  cases r with
  | none => rfl
  | some r => cases r <;> rfl

theorem presenceOfCode_presenceCode (p : Presence) : presenceOfCode (presenceCode p) = p := by cases p <;> rfl

theorem loadedVerdict_verdictCode (v : Verdict) : loadedVerdict (verdictCode v) = v := by cases v <;> rfl

theorem loadedGoverning_governingCode (g : GoverningKind) : loadedGoverning (governingCode g) = g := by
  cases g with
  | none => rfl
  | base => rfl
  | override k => cases k <;> rfl

theorem loadedEntryState_entryStateCode (e : EntryState) : loadedEntryState (entryStateCode e) = e := by cases e <;> rfl

theorem loadedAddress_val (a : Address) : loadedAddress a.val = a := by
  rw [loadedAddress, (addressOfCode_eq_some_iff ..).2 rfl]
  rfl

theorem loadedDuty_val (a : Address) : loadedDuty a.val = some a := by
  have small := a.isLt
  rw [loadedDuty, if_neg (by omega), (addressOfCode_eq_some_iff ..).2 rfl]

theorem presenceCode_lt (p : Presence) : presenceCode p < 4 := by cases p <;> decide

theorem verdictCode_lt (v : Verdict) : verdictCode v < 10 := by cases v <;> decide

theorem entryStateCode_lt (e : EntryState) : entryStateCode e < 4 := by cases e <;> decide

/-! Padding. -/

theorem length_padded (n : Nat) (bytes : List Byte) : (padded n bytes).length = n := by
  rw [padded, List.length_append, List.length_take, List.length_replicate]
  omega

theorem padded_of_le {n : Nat} {bytes : List Byte} (fits : bytes.length ≤ n) :
    padded n bytes = bytes ++ List.replicate (n - bytes.length) 0 := by
  rw [padded, List.take_of_length_le fits]

/-! A station record (R165). -/

theorem shownAge_lt (e : Entry) (i : Nat) : shownAge e i < 4 := by
  unfold shownAge
  split
  · decide
  · split
    · exact Nat.mod_lt _ (by decide)
    · decide

/-- An age field of two bits. -/
theorem bitField_ageByte (e : Entry) (first : Nat) {j : Nat} (small : j < 4) :
    bitField (ageByte e first).toNat (6 - 2 * j) 2 = shownAge e (first + j) := by
  have age0 := shownAge_lt e first
  have age1 := shownAge_lt e (first + 1)
  have age2 := shownAge_lt e (first + 2)
  have age3 := shownAge_lt e (first + 3)
  have whole : (ageByte e first).toNat = 64 * shownAge e first + 16 * shownAge e (first + 1) + 4 * shownAge e (first + 2)
      + shownAge e (first + 3) := toNat_byteOf (by omega)
  rw [whole, bitField]
  interval_cases j
  · change _ = shownAge e first
    omega
  · omega
  · omega
  · omega

/-- The slots of a station record. -/
def recordSlots (e : Entry) : List Byte := slotsBytes (roleSlots e.role) (e.figures.map (·.value))

section

variable {e : Entry} (present : e.presence ≠ .absent)

include present

theorem stationRecord_of_present :
    stationRecord e =
      [byteOf (presenceCode e.presence + 4 * roleCode e.role + 32 * (e.heard % 2) + 64 * (e.miss % 4)),
        byteOf (verdictCode e.verdict + 16 * governingCode e.governing), byteOf (flagBit e.flame + 2 * flagBit e.dutyAllowed),
        ageByte e 0, ageByte e 4] ++ padded 11 (recordSlots e) := by
  unfold stationRecord
  rw [if_neg present, if_neg present]
  rfl

theorem length_stationRecord_of_present : (stationRecord e).length = 16 := by
  rw [stationRecord_of_present present, List.length_append, length_padded]
  rfl

/-- The age that a record shows of a slot. -/
theorem loadedAge_stationRecord {i : Nat} (small : i < 8) : loadedAge (stationRecord e) i = shownAge e i := by
  rw [loadedAge, stationRecord_of_present present]
  rcases Nat.lt_or_ge i 4 with first | second
  · have field := bitField_ageByte e 0 first
    rw [Nat.zero_add] at field
    rw [Nat.div_eq_of_lt first, Nat.mod_eq_of_lt first]
    exact field
  · have field := bitField_ageByte e 4 (j := i - 4) (by omega)
    rw [show 4 + (i - 4) = i by omega] at field
    rw [show i / 4 = 1 by omega, show i % 4 = i - 4 by omega]
    exact field

theorem shownAge_of_held {i : Nat} (held : i < (roleSlots e.role).length) (within : i < e.figures.length)
    (age : e.figures[i].age < 4) : shownAge e i = e.figures[i].age := by
  rw [shownAge, if_neg present, if_pos held, entryFigure, List.getD_eq_getElem _ _ within]
  exact Nat.mod_eq_of_lt age

variable (eight : e.figures.length = 8)
  (fits : ∀ p ∈ (roleSlots e.role).zip e.figures, (p.1 = 1 → p.2.value.toNat < 256) ∧ p.2.age < 4)

include eight fits

/-- The values of the slots come back. -/
theorem slotsOfBytes_stationRecord :
    slotsOfBytes (roleSlots e.role) ((stationRecord e).drop 5) =
      (e.figures.map (·.value)).take (roleSlots e.role).length := by
  have widths := roleSlots_values e.role
  have few := length_roleSlots_le e.role
  have length : (recordSlots e).length ≤ 11 := by
    have := sum_roleSlots_le e.role
    rw [recordSlots, length_slotsBytes widths]
    omega
  have small : ∀ p ∈ (roleSlots e.role).zip (e.figures.map (·.value)), p.1 = 1 → p.2.toNat < 256 := by
    intro p mem
    rw [List.zip_map_right] at mem
    obtain ⟨⟨width, figure⟩, inside, rfl⟩ := List.mem_map.1 mem
    obtain ⟨narrow, -⟩ := fits _ inside
    exact narrow
  have behind : (stationRecord e).drop 5 = recordSlots e ++ List.replicate (11 - (recordSlots e).length) 0 := by
    rw [stationRecord_of_present present, ← padded_of_le length]
    rfl
  rw [behind]
  exact slotsOfBytes_slotsBytes widths (by rw [List.length_map, eight]; omega) small _

theorem loadedFigures_stationRecord
    (others : e.figures.drop (roleSlots e.role).length = List.replicate (8 - (roleSlots e.role).length) clearedFigure) :
    loadedFigures e.role (stationRecord e) = e.figures := by
  have few := length_roleSlots_le e.role
  have values := slotsOfBytes_stationRecord present eight fits
  have held : ((slotsOfBytes (roleSlots e.role) ((stationRecord e).drop 5)).zipIdx.map fun p =>
      ({ value := p.1, age := loadedAge (stationRecord e) p.2 } : Figure)) =
        e.figures.take (roleSlots e.role).length := by
    rw [values]
    refine List.ext_getElem (by simp) fun i inside _ => ?_
    have bound : i < (roleSlots e.role).length ∧ i < e.figures.length := by
      simpa using inside
    obtain ⟨slot, within⟩ := bound
    obtain ⟨-, age⟩ := fits ((roleSlots e.role)[i], e.figures[i])
      (List.mem_iff_getElem.2 ⟨i, by simpa using ⟨slot, within⟩, List.getElem_zip⟩)
    have shown := (loadedAge_stationRecord present (i := i) (by omega)).trans (shownAge_of_held present slot within age)
    simp [shown]
  unfold loadedFigures
  dsimp only
  rw [held, List.length_take, Nat.min_eq_left (by omega), ← others, List.take_append_drop]

end

/-- A station record gives its entry back. -/
theorem stationRecord_roundTrip {e : Entry} (inRange : entryInRange e) :
    (stationRecord e).length = 16 ∧ loadedEntry (stationRecord e) = e := by
  unfold entryInRange at inRange
  split at inRange
  next absent =>
    rw [inRange]
    exact ⟨rfl, rfl⟩
  next present =>
    obtain ⟨heard, miss, eight, fits, others⟩ := inRange
    refine ⟨length_stationRecord_of_present present, ?_⟩
    have presence := presenceCode_lt e.presence
    have role := roleCode_le e.role
    have verdict := verdictCode_lt e.verdict
    have governing := governingCode_le e.governing
    have byte0 : (byteAt (stationRecord e) 0).toNat =
        presenceCode e.presence + 4 * roleCode e.role + 32 * (e.heard % 2) + 64 * (e.miss % 4) := by
      rw [stationRecord_of_present present]
      exact toNat_byteOf (by omega)
    have byte1 : (byteAt (stationRecord e) 1).toNat = verdictCode e.verdict + 16 * governingCode e.governing := by
      rw [stationRecord_of_present present]
      exact toNat_byteOf (by omega)
    have flags : (byteAt (stationRecord e) 2).getLsbD 0 = e.flame ∧ (byteAt (stationRecord e) 2).getLsbD 1 = e.dutyAllowed := by
      rw [stationRecord_of_present present]
      exact getLsbD_flagByte e.flame e.dutyAllowed
    have presenceBits : bitField (byteAt (stationRecord e) 0).toNat 0 2 = presenceCode e.presence := by
      rw [byte0, bitField]
      omega
    have roleBits : bitField (byteAt (stationRecord e) 0).toNat 2 3 = roleCode e.role := by
      rw [byte0, bitField]
      omega
    have heardBit : bitField (byteAt (stationRecord e) 0).toNat 5 1 = e.heard := by
      rw [byte0, bitField]
      omega
    have missBits : bitField (byteAt (stationRecord e) 0).toNat 6 2 = e.miss := by
      rw [byte0, bitField]
      omega
    have verdictBits : bitField (byteAt (stationRecord e) 1).toNat 0 4 = verdictCode e.verdict := by
      rw [byte1, bitField]
      omega
    have governingBits : bitField (byteAt (stationRecord e) 1).toNat 4 4 = governingCode e.governing := by
      rw [byte1, bitField]
      omega
    unfold loadedEntry
    dsimp only
    rw [presenceBits, roleBits, heardBit, missBits, verdictBits, governingBits, flags.1, flags.2,
      presenceOfCode_presenceCode, loadedRole_roleCode, loadedVerdict_verdictCode, loadedGoverning_governingCode,
      loadedFigures_stationRecord present eight fits others]

/-! A queue record (R165). -/

/-- The four bytes and the round behind the draws. -/
def recordTail (q : QueueEntry) : List Byte :=
  [byteOf q.minMethane, byteOf q.granted, byteOf (flagBit q.shortfall), byteOf (entryStateCode q.state)] ++
    bytesOfWord q.joined

theorem queueRecord_eq (q : QueueEntry) :
    queueRecord q = [byteOf q.claimant.val, byteOf q.requested, byteOf q.draws.length] ++
      padded 10 (q.draws.flatMap bytesOfWord) ++ recordTail q := by
  rw [recordTail, ← List.append_assoc]
  rfl

theorem length_queueRecord (q : QueueEntry) : (queueRecord q).length = 19 := by
  rw [queueRecord_eq, List.length_append, List.length_append, length_padded]
  rfl

/-- A queue record gives its entry back. -/
theorem loadedQueueEntry_queueRecord {q : QueueEntry} (inRange : queueEntryInRange q) :
    loadedQueueEntry (queueRecord q) = q := by
  obtain ⟨requestedFits, five, methaneFits, grantedFits⟩ := inRange
  let head : List Byte := [byteOf q.claimant.val, byteOf q.requested, byteOf q.draws.length]
  let drawBytes := q.draws.flatMap bytesOfWord
  have drawLength : drawBytes.length = 2 * q.draws.length := length_flatMap_bytesOfWord q.draws
  have front : (head ++ padded 10 drawBytes).length = 13 := by
    rw [List.length_append, length_padded]
    rfl
  have behind : ∀ k, byteAt (queueRecord q) (13 + k) = byteAt (recordTail q) k := fun k => by
    rw [queueRecord_eq]
    exact byteAt_append_right front (recordTail q) k
  have claimant : (byteAt (queueRecord q) 0).toNat = q.claimant.val := toNat_byteOf (q.claimant.isLt.trans (by decide))
  have requested : (byteAt (queueRecord q) 1).toNat = q.requested := toNat_byteOf requestedFits
  have count : (byteAt (queueRecord q) 2).toNat = q.draws.length := toNat_byteOf (by omega)
  have methane : (byteAt (queueRecord q) 13).toNat = q.minMethane := (congrArg _ (behind 0)).trans (toNat_byteOf methaneFits)
  have granted : (byteAt (queueRecord q) 14).toNat = q.granted := (congrArg _ (behind 1)).trans (toNat_byteOf grantedFits)
  have shortfall : (byteAt (queueRecord q) 15).toNat = flagBit q.shortfall :=
    (congrArg _ (behind 2)).trans (toNat_byteOf ((flagBit_lt _).trans (by decide)))
  have state : (byteAt (queueRecord q) 16).toNat = entryStateCode q.state :=
    (congrArg _ (behind 3)).trans (toNat_byteOf ((entryStateCode_lt _).trans (by decide)))
  have joined : wordAt (queueRecord q) 17 = q.joined := by
    have word : wordAt (queueRecord q) 17 = wordAt (recordTail q) 4 := congrArg₂ wordOfBytes (behind 4) (behind 5)
    exact word.trans (wordOfBytes_extract q.joined)
  have draws : loadedDraws (queueRecord q) = q.draws := by
    have taken : ((queueRecord q).drop 3).take (2 * q.draws.length) = drawBytes := by
      have rest : (queueRecord q).drop 3 = drawBytes ++ (List.replicate (10 - drawBytes.length) 0 ++ recordTail q) := by
        rw [← List.append_assoc, ← padded_of_le (by omega), queueRecord_eq, List.append_assoc]
        rfl
      rw [rest, List.take_left' drawLength]
    unfold loadedDraws
    dsimp only
    rw [count, if_pos five, taken, wordsOfBytes_flatMap]
  unfold loadedQueueEntry
  rw [claimant, requested, draws, methane, granted, shortfall, state, joined, loadedAddress_val, loadedFlag_flagBit,
    loadedEntryState_entryStateCode]

/-! The body (R99). -/

theorem length_miscRecord (c : Committed) : (miscRecord c).length = 6 := rfl

/-- Duty, offer, trips, flaring and queue count of a misc record at the start of a list. -/
theorem miscRecord_roundTrip (c : Committed) (few : c.queue.length ≤ 12) (rest : List Byte) :
    let bytes := miscRecord c ++ rest
    loadedDuty (byteAt bytes 0).toNat = c.duty ∧ loadedFlag (byteAt bytes 1).toNat = c.offer ∧ wordAt bytes 2 = c.trips ∧
      loadedFlag (byteAt bytes 4).toNat = c.flaring ∧ (byteAt bytes 5).toNat = c.queue.length := by
  have flag : ∀ b, loadedFlag (byteOf (flagBit b)).toNat = b := fun b => by
    rw [toNat_byteOf ((flagBit_lt b).trans (by decide)), loadedFlag_flagBit]
  have duty : loadedDuty (byteAt (miscRecord c ++ rest) 0).toNat = c.duty := by
    unfold miscRecord
    cases c.duty with
    | none => rfl
    | some a => exact (congrArg loadedDuty (toNat_byteOf (a.isLt.trans (by decide)))).trans (loadedDuty_val a)
  exact ⟨duty, flag c.offer, wordOfBytes_extract c.trips, flag c.flaring, toNat_byteOf (by omega)⟩

theorem addresses_eq_finRange : addresses = List.finRange 16 := by decide

/-- Settles O7: each record gives back what it was written from, and the body its state. -/
theorem snapshotRecordsRoundTrip : Obligations.SnapshotRecordsRoundTrip := by
  unfold Obligations.SnapshotRecordsRoundTrip
  refine ⟨fun e => stationRecord_roundTrip, fun q inRange => ⟨length_queueRecord q, loadedQueueEntry_queueRecord inRange⟩,
    fun c sixteen entries twelve claims => ?_⟩
  intro body
  let stations := c.table.flatMap stationRecord
  let records := c.queue.flatMap queueRecord
  have stationLength : ∀ e ∈ c.table, (stationRecord e).length = 16 := fun e mem => (stationRecord_roundTrip (entries e mem)).1
  have stationsLength : stations.length = 256 := by rw [length_flatMap_const stationLength, sixteen]
  have recordsLength : records.length = 19 * c.queue.length := length_flatMap_const fun q _ => length_queueRecord q
  have split : body = stations ++ (miscRecord c ++ records) := List.append_assoc ..
  have behind : ∀ k, byteAt body (256 + k) = byteAt (miscRecord c ++ records) k := fun k => by
    rw [split]
    exact byteAt_append_right stationsLength _ k
  obtain ⟨duty, offer, trips, flaring, count⟩ := miscRecord_roundTrip c twelve records
  have queueCount : (byteAt body 261).toNat = c.queue.length := (congrArg _ (behind 5)).trans count
  have ofTrips : wordAt body 258 = c.trips := (congrArg₂ wordOfBytes (behind 2) (behind 3)).trans trips
  have table : (addresses.map fun a => loadedEntry ((body.drop (16 * a.val)).take 16)) = c.table := by
    rw [addresses_eq_finRange]
    refine List.ext_getElem (by simp [sixteen]) fun k _ small => ?_
    rw [List.getElem_map, List.getElem_finRange, split]
    change loadedEntry (((stations ++ _).drop (16 * k)).take 16) = _
    rw [take_drop_flatMap stationLength _ small]
    exact (stationRecord_roundTrip (entries _ (List.getElem_mem small))).2
  have queue : ((List.range c.queue.length).map fun k => loadedQueueEntry ((body.drop (262 + 19 * k)).take 19)) = c.queue := by
    refine List.ext_getElem (by simp) fun k _ small => ?_
    have rest : body.drop (262 + 19 * k) = (records ++ []).drop (19 * k) := by
      have front : (stations ++ miscRecord c).length = 262 := by rw [List.length_append, stationsLength, length_miscRecord]
      rw [← List.drop_drop, List.append_nil]
      exact congrArg (List.drop (19 * k)) (List.drop_left' front)
    rw [List.getElem_map, List.getElem_range, rest, take_drop_flatMap (fun q _ => length_queueRecord q) [] small]
    exact loadedQueueEntry_queueRecord (claims _ (List.getElem_mem small))
  refine ⟨?_, queueCount, ?_⟩
  · rw [split, List.length_append, List.length_append, stationsLength, length_miscRecord, recordsLength, ← Nat.add_assoc]
  · have ofDuty : loadedDuty (byteAt body 256).toNat = c.duty := (congrArg (fun b => loadedDuty b.toNat) (behind 0)).trans duty
    have ofOffer : loadedFlag (byteAt body 257).toNat = c.offer := (congrArg (fun b => loadedFlag b.toNat) (behind 1)).trans offer
    have ofFlaring : loadedFlag (byteAt body 260).toNat = c.flaring :=
      (congrArg (fun b => loadedFlag b.toNat) (behind 4)).trans flaring
    rw [loadedState, bodyQueueCount, queueCount, table, queue, ofDuty, ofOffer, ofTrips, ofFlaring]

end Sys2Proof.Records
end
